-- ==== Sys2Proof/Word.lean ====
section
/-! DEFINITION. The widths of the block's data: bytes, words, the fields of an instruction, the keypad and the
pixel buffer (00_scope.md R6, R7). -/

namespace Sys2Proof

/-- One 8-bit value: a general register, a timer, a byte of memory (R6: REGW, TIMERW). -/
abbrev Byte := BitVec 8

/-- One 16-bit value: an instruction word, `pc`, `I`, a stack entry (R6: ILEN, PCW, IW, STACKW). -/
abbrev Word := BitVec 16

/-- A 4-bit field of an instruction word (R71: `op`, `n`). -/
abbrev Nibble := BitVec 4

/-- The number of a general register, a 4-bit field: all 16 values name a register (R73). -/
abbrev RegIdx := BitVec 4

/-- A 12-bit address field `nnn` (R71). -/
abbrev Addr := BitVec 12

/-- The 16 key states, bit `k` = key `k`, 1 = pressed (R30, the port `key_in` of R245). -/
abbrev Keys := BitVec 16

/-- The display, 32 rows of 64 one-bit pixels: bit `x` of row `y` is `pix[y][x]` (R31), so that bit `y*64 + x` of the
port `pix_out` (R245) is bit `x` of row `y`. -/
abbrev PixelBuffer := Vector (BitVec 64) 32

end Sys2Proof
end

