-- ==== Sys2Proof/Machine/Flags.lean ====
section
/-! DEFINITION. The values instructions write to VF as the flag (10_state.md R24; 42_alu.md R148 to R152;
44_display.md R192). -/

namespace Sys2Proof.Machine

/-- A condition as the flag byte: 1 if it holds, else 0. -/
def flagByte (b : Bool) : Byte := if b then 1#8 else 0#8

/-- The carry of `a + b`: 1 iff the exact sum is above 255 (R148). -/
def carryFlag (a b : Byte) : Byte := flagByte (decide (a.toNat + b.toNat > 255))

/-- The no-borrow flag of `a - b`: 1 iff `a >= b` (R149, R151; at `a = b` it is 1, D12 and C1, log 9). -/
def noBorrowFlag (a b : Byte) : Byte := flagByte (decide (a.toNat ≥ b.toNat))

/-- The bit a right shift by one moves out, old bit 0 (R150). -/
def shrFlag (a : Byte) : Byte := flagByte (a.getLsbD 0)

/-- The bit a left shift by one moves out, old bit 7 (R152). -/
def shlFlag (a : Byte) : Byte := flagByte (a.getLsbD 7)

/-- The collision flag of a sprite (R192). -/
def collisionFlag (hit : Bool) : Byte := flagByte hit

end Sys2Proof.Machine
end

