-- ==== Sys2Proof/Syntax.lean ====
section
/-! DEFINITION. The 35 instructions, one constructor for each row of spec/opcode_table.json (30_encoding.md R75), in the
table's order. Operands are the fields of the instruction word (R71, R72, R73). -/

namespace Sys2Proof

inductive Instr where
  /-- 0NNN, SYS addr (R100); the word is neither 00E0 nor 00EE. -/
  | sys (nnn : Addr)
  /-- 00E0, CLS (R191). -/
  | cls
  /-- 00EE, RET (R103). -/
  | ret
  /-- 1NNN, JP addr (R101). -/
  | jp (nnn : Addr)
  /-- 2NNN, CALL addr (R102). -/
  | call (nnn : Addr)
  /-- 3XKK, SE Vx, byte (R121). -/
  | seByte (x : RegIdx) (kk : Byte)
  /-- 4XKK, SNE Vx, byte (R122). -/
  | sneByte (x : RegIdx) (kk : Byte)
  /-- 5XY0, SE Vx, Vy (R123). -/
  | seReg (x y : RegIdx)
  /-- 6XKK, LD Vx, byte (R142). -/
  | ldByte (x : RegIdx) (kk : Byte)
  /-- 7XKK, ADD Vx, byte (R143). -/
  | addByte (x : RegIdx) (kk : Byte)
  /-- 8XY0, LD Vx, Vy (R144). -/
  | ldReg (x y : RegIdx)
  /-- 8XY1, OR Vx, Vy (R145). -/
  | orReg (x y : RegIdx)
  /-- 8XY2, AND Vx, Vy (R146). -/
  | andReg (x y : RegIdx)
  /-- 8XY3, XOR Vx, Vy (R147). -/
  | xorReg (x y : RegIdx)
  /-- 8XY4, ADD Vx, Vy (R148). -/
  | addReg (x y : RegIdx)
  /-- 8XY5, SUB Vx, Vy (R149). -/
  | subReg (x y : RegIdx)
  /-- 8XY6, SHR Vx, with `y` encoded and ignored (R150). -/
  | shr (x y : RegIdx)
  /-- 8XY7, SUBN Vx, Vy (R151). -/
  | subn (x y : RegIdx)
  /-- 8XYE, SHL Vx, with `y` encoded and ignored (R152). -/
  | shl (x y : RegIdx)
  /-- 9XY0, SNE Vx, Vy (R124). -/
  | sneReg (x y : RegIdx)
  /-- ANNN, LD I, addr (R170). -/
  | ldI (nnn : Addr)
  /-- BNNN, JP V0, addr (R104). -/
  | jpV0 (nnn : Addr)
  /-- CXKK, RND Vx, byte (R153). -/
  | rnd (x : RegIdx) (kk : Byte)
  /-- DXYN, DRW Vx, Vy, nibble (R192). -/
  | drw (x y : RegIdx) (n : Nibble)
  /-- EX9E, SKP Vx (R126). -/
  | skp (x : RegIdx)
  /-- EXA1, SKNP Vx (R127). -/
  | sknp (x : RegIdx)
  /-- FX07, LD Vx, DT (R210). -/
  | ldVxDT (x : RegIdx)
  /-- FX0A, LD Vx, K (R213). -/
  | ldVxK (x : RegIdx)
  /-- FX15, LD DT, Vx (R211). -/
  | ldDTVx (x : RegIdx)
  /-- FX18, LD ST, Vx (R212). -/
  | ldSTVx (x : RegIdx)
  /-- FX1E, ADD I, Vx (R171). -/
  | addIVx (x : RegIdx)
  /-- FX29, LD F, Vx (R175). -/
  | ldFVx (x : RegIdx)
  /-- FX33, LD B, Vx (R174). -/
  | ldBVx (x : RegIdx)
  /-- FX55, LD [I], Vx (R172). -/
  | ldMemVx (x : RegIdx)
  /-- FX65, LD Vx, [I] (R173). -/
  | ldVxMem (x : RegIdx)
  deriving DecidableEq, Repr

end Sys2Proof
end

