-- ==== Sys2Proof/WellFormed.lean ====
section
/-! DEFINITION. Which instructions have an encoding of their own. Every field value names an operand (30_encoding.md
R72, R73), so the one check is row 1 of R75: the words 00E0 and 00EE are CLS and RET, not SYS. -/

namespace Sys2Proof

/-- `i` is an instruction some word stands for: SYS excludes the addresses of CLS and RET (R75 row 1, R76). -/
def Instr.wellFormed : Instr → Bool
  | .sys nnn => nnn != 0x0E0#12 && nnn != 0x0EE#12
  | _ => true

end Sys2Proof
end

