-- ==== Sys2Proof/Decode.lean ====
section
/-! DEFINITION. Decoding words and bytes (30_encoding.md R71, R76, R77), rejecting the unknown words by the name of
their family, and the encoder written from the patterns of R75. -/

namespace Sys2Proof

/-- The views of a word, computed on every fetch (R71, R33). -/
structure Fields where
  op : Nibble
  nnn : Addr
  x : RegIdx
  y : RegIdx
  n : Nibble
  kk : Byte
  deriving DecidableEq, Repr

/-- The fields of a word (R71): `op = w[15:12]`, `nnn = w[11:0]`, `x = w[11:8]`, `y = w[7:4]`, `n = w[3:0]`,
`kk = w[7:0]`. -/
def fields (w : Word) : Fields :=
  { op := w.extractLsb' 12 4
    nnn := w.extractLsb' 0 12
    x := w.extractLsb' 8 4
    y := w.extractLsb' 4 4
    n := w.extractLsb' 0 4
    kk := w.extractLsb' 0 8 }

/-- Why bytes are no instruction: fewer than two of them, or a word of one of the five groups of R77. -/
inductive Reject where
  /-- Fewer than two bytes: every instruction is exactly 16 bits (R70). -/
  | truncated
  /-- `5XYn` with `n` not 0. -/
  | unknown5
  /-- `8XYn` with `n` one of 8, 9, A, B, C, D, F. -/
  | unknown8
  /-- `9XYn` with `n` not 0. -/
  | unknown9
  /-- `EXkk` with `kk` neither 9E nor A1. -/
  | unknownE
  /-- `FXkk` with `kk` none of 07, 0A, 15, 18, 1E, 29, 33, 55, 65. -/
  | unknownF
  deriving DecidableEq, Repr

/-- Family 0 (R76): the whole word refines it. -/
def decode0 (f : Fields) : Instr :=
  if f.nnn = 0x0E0#12 then .cls else if f.nnn = 0x0EE#12 then .ret else .sys f.nnn

/-- Family 8 (R76): the low nibble refines it. -/
def decode8 (f : Fields) : Except Reject Instr :=
  match f.n with
  | 0x0#4 => .ok (.ldReg f.x f.y)
  | 0x1#4 => .ok (.orReg f.x f.y)
  | 0x2#4 => .ok (.andReg f.x f.y)
  | 0x3#4 => .ok (.xorReg f.x f.y)
  | 0x4#4 => .ok (.addReg f.x f.y)
  | 0x5#4 => .ok (.subReg f.x f.y)
  | 0x6#4 => .ok (.shr f.x f.y)
  | 0x7#4 => .ok (.subn f.x f.y)
  | 0xE#4 => .ok (.shl f.x f.y)
  | _ => .error .unknown8

/-- Family E (R76): the low byte refines it. -/
def decodeE (f : Fields) : Except Reject Instr :=
  match f.kk with
  | 0x9E#8 => .ok (.skp f.x)
  | 0xA1#8 => .ok (.sknp f.x)
  | _ => .error .unknownE

/-- Family F (R76): the low byte refines it. -/
def decodeF (f : Fields) : Except Reject Instr :=
  match f.kk with
  | 0x07#8 => .ok (.ldVxDT f.x)
  | 0x0A#8 => .ok (.ldVxK f.x)
  | 0x15#8 => .ok (.ldDTVx f.x)
  | 0x18#8 => .ok (.ldSTVx f.x)
  | 0x1E#8 => .ok (.addIVx f.x)
  | 0x29#8 => .ok (.ldFVx f.x)
  | 0x33#8 => .ok (.ldBVx f.x)
  | 0x55#8 => .ok (.ldMemVx f.x)
  | 0x65#8 => .ok (.ldVxMem f.x)
  | _ => .error .unknownF

/-- Decoding a fetched word by its top nibble (R76); total, and a function of the word alone. -/
def decodeWord (w : Word) : Except Reject Instr :=
  let f := fields w
  match f.op with
  | 0x0#4 => .ok (decode0 f)
  | 0x1#4 => .ok (.jp f.nnn)
  | 0x2#4 => .ok (.call f.nnn)
  | 0x3#4 => .ok (.seByte f.x f.kk)
  | 0x4#4 => .ok (.sneByte f.x f.kk)
  | 0x5#4 => if f.n = 0x0#4 then .ok (.seReg f.x f.y) else .error .unknown5
  | 0x6#4 => .ok (.ldByte f.x f.kk)
  | 0x7#4 => .ok (.addByte f.x f.kk)
  | 0x8#4 => decode8 f
  | 0x9#4 => if f.n = 0x0#4 then .ok (.sneReg f.x f.y) else .error .unknown9
  | 0xA#4 => .ok (.ldI f.nnn)
  | 0xB#4 => .ok (.jpV0 f.nnn)
  | 0xC#4 => .ok (.rnd f.x f.kk)
  | 0xD#4 => .ok (.drw f.x f.y f.n)
  | 0xE#4 => decodeE f
  | _ => decodeF f

/-- Two bytes as a word, big-endian: the byte at the lower address is `w[15:8]` (20_memory.md R54). -/
def wordOfBytes (hi lo : Byte) : Word := hi ++ lo

/-- Decoding at the head of a list of bytes in address order; the bytes after the instruction are returned. -/
def decodeBytes : List Byte → Except Reject (Instr × List Byte)
  | hi :: lo :: rest =>
    match decodeWord (wordOfBytes hi lo) with
    | .ok i => .ok (i, rest)
    | .error r => .error r
  | _ => .error .truncated

/-- The word of an instruction, each row's pattern of R75 with its fields filled in (R74, R79). -/
def encode : Instr → Word
  | .sys nnn => 0x0#4 ++ nnn
  | .cls => 0x00E0#16
  | .ret => 0x00EE#16
  | .jp nnn => 0x1#4 ++ nnn
  | .call nnn => 0x2#4 ++ nnn
  | .seByte x kk => 0x3#4 ++ x ++ kk
  | .sneByte x kk => 0x4#4 ++ x ++ kk
  | .seReg x y => 0x5#4 ++ x ++ y ++ 0x0#4
  | .ldByte x kk => 0x6#4 ++ x ++ kk
  | .addByte x kk => 0x7#4 ++ x ++ kk
  | .ldReg x y => 0x8#4 ++ x ++ y ++ 0x0#4
  | .orReg x y => 0x8#4 ++ x ++ y ++ 0x1#4
  | .andReg x y => 0x8#4 ++ x ++ y ++ 0x2#4
  | .xorReg x y => 0x8#4 ++ x ++ y ++ 0x3#4
  | .addReg x y => 0x8#4 ++ x ++ y ++ 0x4#4
  | .subReg x y => 0x8#4 ++ x ++ y ++ 0x5#4
  | .shr x y => 0x8#4 ++ x ++ y ++ 0x6#4
  | .subn x y => 0x8#4 ++ x ++ y ++ 0x7#4
  | .shl x y => 0x8#4 ++ x ++ y ++ 0xE#4
  | .sneReg x y => 0x9#4 ++ x ++ y ++ 0x0#4
  | .ldI nnn => 0xA#4 ++ nnn
  | .jpV0 nnn => 0xB#4 ++ nnn
  | .rnd x kk => 0xC#4 ++ x ++ kk
  | .drw x y n => 0xD#4 ++ x ++ y ++ n
  | .skp x => 0xE#4 ++ x ++ 0x9E#8
  | .sknp x => 0xE#4 ++ x ++ 0xA1#8
  | .ldVxDT x => 0xF#4 ++ x ++ 0x07#8
  | .ldVxK x => 0xF#4 ++ x ++ 0x0A#8
  | .ldDTVx x => 0xF#4 ++ x ++ 0x15#8
  | .ldSTVx x => 0xF#4 ++ x ++ 0x18#8
  | .addIVx x => 0xF#4 ++ x ++ 0x1E#8
  | .ldFVx x => 0xF#4 ++ x ++ 0x29#8
  | .ldBVx x => 0xF#4 ++ x ++ 0x33#8
  | .ldMemVx x => 0xF#4 ++ x ++ 0x55#8
  | .ldVxMem x => 0xF#4 ++ x ++ 0x65#8

/-- The bytes of a word in address order, big-endian (R54). -/
def bytesOfWord (w : Word) : List Byte := [w.extractLsb' 8 8, w.extractLsb' 0 8]

/-- The bytes of an instruction in address order. -/
def encodeBytes (i : Instr) : List Byte := bytesOfWord (encode i)

/-- The word an opcode-table row stands for: its low `nbits` bits are those of `w`, all others 0. -/
def tableWord (nbits w : Nat) : Word := BitVec.ofNat 16 (w % 2 ^ nbits)

/-- What the decoder reads from the bytes of a table row's word. -/
def decodeTableWord (nbits w : Nat) : Option Instr :=
  match decodeBytes (bytesOfWord (tableWord nbits w)) with
  | .ok (i, _) => some i
  | .error _ => none

end Sys2Proof
end

