-- ==== Sys2Proof/Config.lean ====
section
/-! DEFINITION. What is fixed for the machine (00_scope.md R6) and the one value the spec leaves free, the draw of
CXKK (10_state.md R21). -/

namespace Sys2Proof.Config

/-- MEMSIZE of R6: the RAM has addresses 0x000 to 0xFFF. -/
abbrev memSize : Nat := 4096

/-- PROGBASE of R6: where the ROM image is loaded and where the first fetch reads. -/
abbrev progBase : Word := 0x200

/-- ROMMAX of R6: the longest ROM image the load accepts. -/
abbrev romMax : Nat := 3584

/-- STACKDEPTH of R6. -/
abbrev stackDepth : Nat := 16

/-- The random byte `rand8` (R6, R21, R153), a FREE VALUE: no body, so nothing can know any value of it. `rand8 k` is
the byte that the `k`-th execution of CXKK draws; the step reads `k` from `State.draws` and advances it (log 1). -/
opaque rand8 : Nat → Byte

end Sys2Proof.Config
end

