-- ==== Sys2Proof/Machine/Memory.lean ====
section
/-! DEFINITION. The RAM as plain data: a list of address and byte pairs in one canonical form over the reset contents
(20_memory.md R50 to R53, R57, R66), and the address arithmetic `addr12`. -/

namespace Sys2Proof.Machine

/-- The reduction of every address to 12 bits at the point it is computed: `addr12(a) = a & 0xFFF` (00_scope.md R10,
20_memory.md R51; the spec's own decision D3, log 6). -/
def addr12 (a : Word) : Word := a &&& 0x0FFF#16

/-- FONTBASE of 00_scope.md R6: the first byte of the font (the spec's own decision D16, log 2). -/
def fontBase : Nat := 0x000

/-- The font, 16 glyphs of 5 bytes (20_memory.md R66; the values are the spec's general knowledge, D17, log 2). -/
def fontBytes : List Byte :=
  [0xF0, 0x90, 0x90, 0x90, 0xF0] ++ [0x20, 0x60, 0x20, 0x20, 0x70] ++
  [0xF0, 0x10, 0xF0, 0x80, 0xF0] ++ [0xF0, 0x10, 0xF0, 0x10, 0xF0] ++
  [0x90, 0x90, 0xF0, 0x10, 0x10] ++ [0xF0, 0x80, 0xF0, 0x10, 0xF0] ++
  [0xF0, 0x80, 0xF0, 0x90, 0xF0] ++ [0xF0, 0x10, 0x20, 0x40, 0x40] ++
  [0xF0, 0x90, 0xF0, 0x90, 0xF0] ++ [0xF0, 0x90, 0xF0, 0x10, 0xF0] ++
  [0xF0, 0x90, 0xF0, 0x90, 0x90] ++ [0xE0, 0x90, 0xE0, 0x90, 0xE0] ++
  [0xF0, 0x80, 0x80, 0x80, 0xF0] ++ [0xE0, 0x90, 0x90, 0x90, 0xE0] ++
  [0xF0, 0x80, 0xF0, 0x80, 0xF0] ++ [0xF0, 0x80, 0xF0, 0x80, 0x80]

/-- What an address that the list does not hold reads as: the reset contents of the RAM before a ROM is loaded
(10_state.md R38: the font at its base, every other byte 0x00; D16, D17, D27, log 2). -/
def initialByte (a : Nat) : Byte :=
  if fontBase ≤ a then fontBytes.getD (a - fontBase) 0 else 0

/-- The RAM: the bytes that differ from the reset contents, by address. -/
abbrev Memory := List Host.Cell

/-- The canonical form from address `lo` on: addresses strictly rising and inside the RAM, and no byte equal to what an
unlisted address reads as. -/
def Memory.wfFrom (lo : Nat) : Memory → Bool
  | [] => true
  | (a, v) :: m => decide (lo ≤ a) && decide (a < Config.memSize) && v != initialByte a && wfFrom (a + 1) m

/-- The canonical form of the RAM: equal contents are equal lists. -/
def Memory.wf (m : Memory) : Bool := Memory.wfFrom 0 m

/-- The byte at address `a` (20_memory.md R53). -/
def Memory.read (m : Memory) (a : Nat) : Byte :=
  match m with
  | [] => initialByte a
  | (b, v) :: rest => if a = b then v else Memory.read rest a

/-- The pair to list for the byte `v` at `a`, none where an unlisted address already reads so. -/
def Memory.cell (a : Nat) (v : Byte) : Memory := if v = initialByte a then [] else [(a, v)]

/-- The RAM with the byte `v` at address `a` and no other byte changed (20_memory.md R53). -/
def Memory.write (m : Memory) (a : Nat) (v : Byte) : Memory :=
  match m with
  | [] => Memory.cell a v
  | (b, w) :: rest =>
    if a < b then Memory.cell a v ++ (b, w) :: rest
    else if a = b then Memory.cell a v ++ rest
    else (b, w) :: Memory.write rest a v

/-- The bytes of an image stored at ascending addresses from `a` on (70_reset_and_hazards.md R272). -/
def Memory.load (m : Memory) (a : Nat) : List Byte → Memory
  | [] => m
  | v :: rest => Memory.load (m.write a v) (a + 1) rest

end Sys2Proof.Machine
end

