-- ==== Sys2Proof/Machine/State.lean ====
section
/-! DEFINITION. The state of the block (10_state.md R20), the ways a step can stop, and the state after reset
(10_state.md R38). -/

namespace Sys2Proof.Machine

/-- The run state (10_state.md R34). -/
inductive RunState where
  | running
  | paused
  | halted
  deriving DecidableEq, Repr

/-- Why the block halted (10_state.md R35, 60_exceptions.md R230). -/
inductive HaltCause where
  /-- Code 0: not halted. -/
  | none
  /-- Code 2: 2NNN with a full stack (R232). -/
  | stackOverflow
  /-- Code 3: 00EE with an empty stack (R233). -/
  | stackUnderflow
  /-- Code 4: the host's quit signal (R239). -/
  | quit
  /-- Code 5: a failed or oversized ROM load (R248). -/
  | initFailure
  deriving DecidableEq, Repr

/-- The phase of the key-wait latch (10_state.md R36). -/
inductive KwPhase where
  | idle
  | waiting
  deriving DecidableEq, Repr

/-- The ways a step stops with a fault. -/
inductive Fault where
  /-- Raised by 2NNN and 00EE in a state whose SP is above 16, a value 10_state.md R27 says is not legal and no rule can
  make. Safe: no state that the block can be in raises it (log 5). -/
  | illegalStackPointer
  deriving DecidableEq, Repr

/-- The ways a step is refused. -/
inductive Refusal where
  /-- Raised by `exec` for an instruction that has no meaning in this model; no instruction is one. Safe: the step has no
  next state. -/
  | notModelled (mnemonic : String)
  deriving DecidableEq, Repr

/-- The state of the block, element by element as 10_state.md R20 lists it, and the model's own counter `draws`. -/
structure State where
  /-- V[0..15], the general registers; V[15] is also the flag register (R22, R23). -/
  V : Vector Byte 16
  /-- The index register (R25). -/
  I : Word
  /-- The program counter (R26). -/
  pc : Word
  /-- The return addresses, oldest first (R27). -/
  stack : Vector Word 16
  /-- The number of valid stack entries, 0 to 16 (R27). -/
  SP : Byte
  /-- The delay timer (R29). -/
  DT : Byte
  /-- The sound timer (R29). -/
  ST : Byte
  /-- The RAM (20_memory.md R50), as the bytes that differ from its reset contents. -/
  mem : Memory
  /-- The keypad, written by the host alone (R30). -/
  key : Keys
  /-- The pixel buffer (R31). -/
  pix : PixelBuffer
  /-- The redraw flag (R32). -/
  needsRedraw : Bool
  /-- The last fetched word (R33); its views are `Sys2Proof.fields`. -/
  IR : Word
  /-- Run control (R34). -/
  runState : RunState
  /-- Why the block halted (R35). -/
  haltCause : HaltCause
  /-- The phase of the key wait (R36). -/
  kwPhase : KwPhase
  /-- The keypad as the key wait last sampled it (R36). -/
  kwSnap : Keys
  /-- THE MODEL'S OWN: how many random bytes have been drawn, the index of the next free value of `Config.rand8`
  (R21 keeps the random source out of the block's state; log 1). -/
  draws : Nat
  deriving DecidableEq, Repr

/-- The state after reset with an empty ROM image, a successful load (10_state.md R38, 70_reset_and_hazards.md R272);
`afterReset` in Machine/HostPort.lean loads a ROM image into it. The value of `draws` is a DESIGN CHOICE (log 1). -/
def State.reset : State :=
  { V := Vector.replicate 16 0x00
    I := 0x0000
    pc := Config.progBase
    stack := Vector.replicate 16 0x0000
    SP := 0
    DT := 0x00
    ST := 0x00
    mem := []
    key := 0
    pix := Vector.replicate 32 0
    needsRedraw := false
    IR := 0x0000
    runState := .running
    haltCause := .none
    kwPhase := .idle
    kwSnap := 0
    draws := 0 }

end Sys2Proof.Machine
end

