-- ==== Sys2Proof/Machine/Ops.lean ====
section
/-! DEFINITION. The named operations over registers, memory, `pc`, the stack and run control that every meaning is
written with; fetching an instruction; and the one operation that enters the fatal state. -/

namespace Sys2Proof.Machine

/-- What a step answers. -/
abbrev Result := Host.Outcome State Fault Refusal

/-- `V[x]` (00_scope.md R9); none of the 16 registers is hardwired (10_state.md R22). -/
def State.reg (s : State) (x : RegIdx) : Byte := s.V[x.toNat]'x.isLt

/-- `V[x] <- v` (00_scope.md R9). -/
def State.setReg (s : State) (x : RegIdx) (v : Byte) : State := { s with V := s.V.set x.toNat v x.isLt }

/-- `pc <- a`, reduced by `addr12` (10_state.md R26). -/
def State.setPc (s : State) (a : Word) : State := { s with pc := addr12 a }

/-- `I <- a`, reduced by `addr12` (10_state.md R25). -/
def State.setI (s : State) (a : Word) : State := { s with I := addr12 a }

/-- `MemRead(a, 1)` (00_scope.md R10, 20_memory.md R53). -/
def State.memRead (s : State) (a : Word) : Byte := s.mem.read (addr12 a).toNat

/-- `MemWrite(a, 1, v)` (00_scope.md R10, 20_memory.md R53). -/
def State.memWrite (s : State) (a : Word) (v : Byte) : State :=
  { s with mem := s.mem.write (addr12 a).toNat v }

/-- A flag-writing instruction's two writes in the document's order: VF first, then the destination, so with `x = F` the
result is what VF ends as (42_alu.md R141). -/
def State.setFlagThenReg (s : State) (x : RegIdx) (flag result : Byte) : State :=
  (s.setReg 0xF#4 flag).setReg x result

/-- The skip: `pc <- addr12(pc + 2)` (41_skips.md R120). -/
def State.skip (s : State) : State := s.setPc (s.pc + 2#16)

/-- The skip taken on a condition; otherwise `pc` keeps the fetch's value (41_skips.md R120). -/
def State.skipIf (s : State) (c : Bool) : State := if c then s.skip else s

/-- `pc <- addr12(pc - 2)`: the key wait's rewind to itself (45_timers_keys.md R213). -/
def State.rewind (s : State) : State := s.setPc (s.pc - 2#16)

/-- `raise Fatal(c)` (00_scope.md R11, 60_exceptions.md R234): the state as the fetch left it, but for `halt_cause` and
`run_state`. There is no saved state, no handler and no return (R235). -/
def State.raiseFatal (s : State) (c : HaltCause) : State :=
  { s with haltCause := c, runState := .halted }

/-- CALL's push and RET's pop work where 10_state.md R27 says SP is: 0 to 16. `pushPc` stores `pc` in `stack[SP]` and
advances SP (40_control.md R102). -/
def State.pushPc (s : State) (h : s.SP.toNat < Config.stackDepth) : State :=
  { s with stack := s.stack.set s.SP.toNat s.pc h, SP := s.SP + 1#8 }

/-- RET's pop (40_control.md R103): SP goes down by one and the entry there becomes `pc`; the entry is not cleared. -/
def State.popPc (s : State) (h : s.SP.toNat - 1 < Config.stackDepth) : State :=
  { s with SP := s.SP - 1#8 }.setPc (s.stack[s.SP.toNat - 1]'h)

/-- The draw `rand8` (10_state.md R21): the next free value, and the state in which it is used up. -/
def State.drawRandom (s : State) : Byte × State := (Config.rand8 s.draws, { s with draws := s.draws + 1 })

/-- The word at `pc`: the byte at `pc`, then the byte at `addr12(pc + 1)` (30_encoding.md R80, 20_memory.md R54). -/
def State.fetchWord (s : State) : Word := wordOfBytes (s.memRead s.pc) (s.memRead (s.pc + 1#16))

/-- The fetch (30_encoding.md R80): `IR` is the word at `pc`, and `pc` moves to `addr12(pc + 2)`. -/
def State.fetch (s : State) : State := { s with IR := s.fetchWord }.setPc (s.pc + 2#16)

/-- The execute phase of an unknown word: nothing (60_exceptions.md R231). The report is `unknownReport`. -/
def execUnknown (s : State) : Result := .next s

end Sys2Proof.Machine
end

