-- ==== Sys2Proof/Machine/Operands.lean ====
section
/-! DEFINITION. The operand forms: addresses, the key an instruction tests, decimal digits, the sprite's origin and
bits, and the pixels of the buffer. -/

namespace Sys2Proof.Machine

/-- A 12-bit address field as a 16-bit value, zero-extended (30_encoding.md R72). -/
def addrOf (nnn : Addr) : Word := nnn.setWidth 16

/-- The only addressing mode: `addr12(I + k)` (43_memory_index.md, 20_memory.md R51). -/
def indexAddr (i : Word) (k : Nat) : Word := addr12 (i + BitVec.ofNat 16 k)

/-- The target of BNNN before its reduction: `nnn + V[0]` (40_control.md R104). -/
def jumpV0Target (nnn : Addr) (v0 : Byte) : Word := addrOf nnn + v0.setWidth 16

/-- The address of the glyph of a register value: `FONTBASE + 5 * V[x]`, the value not masked
(43_memory_index.md R175). -/
def glyphAddr (v : Byte) : Word := BitVec.ofNat 16 (fontBase + 5 * v.toNat)

/-- The key that EX9E and EXA1 test: `V[x] & 0xF` (41_skips.md R125; the spec's own decision D18, log 12). -/
def keyIndex (v : Byte) : Nat := (v &&& 0x0F#8).toNat

/-- Whether key `k` is pressed. -/
def keyPressed (keys : Keys) (k : Nat) : Bool := keys.getLsbD k

/-- The keys that went from released to pressed since the sample (45_timers_keys.md R213: the set `T`). -/
def newlyPressed (snap keys : Keys) : Keys := ~~~snap &&& keys

/-- The lowest key of a set, none if it is empty (45_timers_keys.md R213: `min(T)`). -/
def lowestKey (t : Keys) : Option Byte := ((List.range 16).find? fun k => t.getLsbD k).map (BitVec.ofNat 8)

/-- The hundreds digit (43_memory_index.md R174). -/
def hundreds (v : Byte) : Byte := BitVec.ofNat 8 (v.toNat / 100)

/-- The tens digit (43_memory_index.md R174). -/
def tens (v : Byte) : Byte := BitVec.ofNat 8 (v.toNat / 10 % 10)

/-- The ones digit (43_memory_index.md R174). -/
def ones (v : Byte) : Byte := BitVec.ofNat 8 (v.toNat % 10)

/-- The column of a sprite's origin: `V[x] mod 64` (44_display.md R192). -/
def originCol (v : Byte) : Nat := v.toNat % 64

/-- The row of a sprite's origin: `V[y] mod 32` (44_display.md R192). -/
def originRow (v : Byte) : Nat := v.toNat % 32

/-- The bit of a sprite byte at column offset `c`, the most significant bit leftmost: `b[7 - c]` (44_display.md R190,
R192). -/
def spriteBit (b : Byte) (c : Nat) : Bool := b.getLsbD (7 - c)

/-- Pixel (x, y) of a buffer, off outside its 64 columns and 32 rows (10_state.md R31). -/
def pixelAt (p : PixelBuffer) (x y : Nat) : Bool := if h : y < 32 then (p[y]'h).getLsbD x else false

/-- The buffer with pixel (x, y) toggled (44_display.md R192: `^ 1`). -/
def togglePixel (p : PixelBuffer) (x y : Nat) : PixelBuffer :=
  if h : y < 32 then p.set y (p[y]'h ^^^ (1#64 <<< x)) h else p

/-- The buffer with every pixel off (44_display.md R191). -/
def clearPixels : PixelBuffer := Vector.replicate 32 0

end Sys2Proof.Machine
end

