-- ==== Sys2Proof/Machine/Alu.lean ====
section
/-! DEFINITION. Arithmetic and logic (42_alu.md R140 to R153): every source is read before any register is written, and
a flag writer writes VF before its destination (R141). -/

namespace Sys2Proof.Machine

/-- 6XKK LD Vx, byte (R142). -/
def execLdByte (x : RegIdx) (kk : Byte) (s : State) : Result := .next (s.setReg x kk)

/-- 7XKK ADD Vx, byte: modulo 256, no flag (R143). -/
def execAddByte (x : RegIdx) (kk : Byte) (s : State) : Result := .next (s.setReg x (s.reg x + kk))

/-- 8XY0 LD Vx, Vy (R144). -/
def execLdReg (x y : RegIdx) (s : State) : Result := .next (s.setReg x (s.reg y))

/-- 8XY1 OR Vx, Vy: no flag (R145). -/
def execOrReg (x y : RegIdx) (s : State) : Result := .next (s.setReg x (s.reg x ||| s.reg y))

/-- 8XY2 AND Vx, Vy: no flag (R146). -/
def execAndReg (x y : RegIdx) (s : State) : Result := .next (s.setReg x (s.reg x &&& s.reg y))

/-- 8XY3 XOR Vx, Vy: no flag (R147). -/
def execXorReg (x y : RegIdx) (s : State) : Result := .next (s.setReg x (s.reg x ^^^ s.reg y))

/-- 8XY4 ADD Vx, Vy: VF the carry, then the sum modulo 256 (R148). -/
def execAddReg (x y : RegIdx) (s : State) : Result :=
  .next (s.setFlagThenReg x (carryFlag (s.reg x) (s.reg y)) (s.reg x + s.reg y))

/-- 8XY5 SUB Vx, Vy: VF the no-borrow of `V[x] - V[y]`, then the difference modulo 256 (R149). -/
def execSubReg (x y : RegIdx) (s : State) : Result :=
  .next (s.setFlagThenReg x (noBorrowFlag (s.reg x) (s.reg y)) (s.reg x - s.reg y))

/-- 8XY6 SHR Vx: VF the old bit 0, then `V[x] >> 1`; `y` is not read (R150). -/
def execShr (x _y : RegIdx) (s : State) : Result :=
  .next (s.setFlagThenReg x (shrFlag (s.reg x)) (s.reg x >>> 1))

/-- 8XY7 SUBN Vx, Vy: VF the no-borrow of `V[y] - V[x]`, then that difference modulo 256 (R151). -/
def execSubn (x y : RegIdx) (s : State) : Result :=
  .next (s.setFlagThenReg x (noBorrowFlag (s.reg y) (s.reg x)) (s.reg y - s.reg x))

/-- 8XYE SHL Vx: VF the old bit 7, then `V[x] << 1` modulo 256; `y` is not read (R152). -/
def execShl (x _y : RegIdx) (s : State) : Result :=
  .next (s.setFlagThenReg x (shlFlag (s.reg x)) (s.reg x <<< 1))

/-- CXKK RND Vx, byte: one fresh draw, masked by `kk` (R153). -/
def execRnd (x : RegIdx) (kk : Byte) (s : State) : Result :=
  .next (s.drawRandom.2.setReg x (s.drawRandom.1 &&& kk))

end Sys2Proof.Machine
end

