-- ==== Sys2Proof/Machine/Control.lean ====
section
/-! DEFINITION. Control transfer: SYS, JP, CALL, RET and JP V0 (40_control.md R100 to R104). -/

namespace Sys2Proof.Machine

/-- 0NNN SYS addr: nothing (R100; the spec's own decision D8, log 11). -/
def execSys (_nnn : Addr) (s : State) : Result := .next s

/-- 1NNN JP addr: `pc <- nnn` (R101). -/
def execJp (nnn : Addr) (s : State) : Result := .next (s.setPc (addrOf nnn))

/-- 2NNN CALL addr (R102): with SP = 16 the fatal stack overflow and nothing else; otherwise push `pc` and jump. -/
def execCall (nnn : Addr) (s : State) : Result :=
  if s.SP = 16#8 then .next (s.raiseFatal .stackOverflow)
  else if h : s.SP.toNat < Config.stackDepth then .next ((s.pushPc h).setPc (addrOf nnn))
  else .fault .illegalStackPointer

/-- 00EE RET (R103): with SP = 0 the fatal stack underflow and nothing else; otherwise pop into `pc`. -/
def execRet (s : State) : Result :=
  if s.SP = 0#8 then .next (s.raiseFatal .stackUnderflow)
  else if h : s.SP.toNat - 1 < Config.stackDepth then .next (s.popPc h)
  else .fault .illegalStackPointer

/-- BNNN JP V0, addr: `pc <- addr12(nnn + V[0])` (R104). -/
def execJpV0 (nnn : Addr) (s : State) : Result := .next (s.setPc (jumpV0Target nnn (s.reg 0x0#4)))

end Sys2Proof.Machine
end

