-- ==== Sys2Proof/Machine/Display.lean ====
section
/-! DEFINITION. The display (44_display.md R190 to R192): CLS, and the sprite engine behind DRW with its clipping and
its collision flag. -/

namespace Sys2Proof.Machine

/-- What the sprite engine works on: the buffer, and whether a collision has been seen. -/
structure Canvas where
  pix : PixelBuffer
  hit : Bool
  deriving DecidableEq, Repr

/-- One sprite bit on pixel (x, y) (R192): a 0 changes nothing; a 1 toggles the pixel and collides if it was on. -/
def plot (x y : Nat) (bit : Bool) (cv : Canvas) : Canvas :=
  if bit then { pix := togglePixel cv.pix x y, hit := cv.hit || pixelAt cv.pix x y } else cv

/-- One sprite row over the listed column offsets, in order; the first column past the right edge ends it (R192). -/
def drawCols (x0 y : Nat) (b : Byte) : List Nat → Canvas → Canvas
  | [], cv => cv
  | c :: cs, cv => if x0 + c ≥ 64 then cv else drawCols x0 y b cs (plot (x0 + c) y (spriteBit b c) cv)

/-- The sprite over the listed row offsets, in order; the first row past the bottom edge ends it (R192). Row `r` is the
byte at `I + r` of `s`. -/
def drawRows (s : State) (x0 y0 : Nat) : List Nat → Canvas → Canvas
  | [], cv => cv
  | r :: rs, cv =>
    if y0 + r ≥ 32 then cv
    else drawRows s x0 y0 rs (drawCols x0 (y0 + r) (s.memRead (indexAddr s.I r)) (List.range 8) cv)

/-- The whole sprite of DXYN: origin and bytes are read before anything is written (R192). -/
def drawSprite (x y : RegIdx) (n : Nibble) (s : State) : Canvas :=
  drawRows s (originCol (s.reg x)) (originRow (s.reg y)) (List.range n.toNat) { pix := s.pix, hit := false }

/-- 00E0 CLS (R191). -/
def execCls (s : State) : Result := .next { s with pix := clearPixels, needsRedraw := true }

/-- DXYN DRW Vx, Vy, nibble (R192): the buffer, then VF, and the redraw flag on every execution. -/
def execDrw (x y : RegIdx) (n : Nibble) (s : State) : Result :=
  .next { s.setReg 0xF#4 (collisionFlag (drawSprite x y n s).hit) with
    pix := (drawSprite x y n s).pix, needsRedraw := true }

end Sys2Proof.Machine
end

