-- ==== Sys2Proof/Machine/MemoryIndex.lean ====
section
/-! DEFINITION. The index register and the loads and stores through it (43_memory_index.md R170 to R175). No
instruction but ANNN, FX1E and FX29 changes `I`. -/

namespace Sys2Proof.Machine

/-- ANNN LD I, addr (R170). -/
def execLdI (nnn : Addr) (s : State) : Result := .next (s.setI (addrOf nnn))

/-- FX1E ADD I, Vx: `I <- addr12(I + V[x])`, VF not written (R171). -/
def execAddIVx (x : RegIdx) (s : State) : Result := .next (s.setI (s.I + (s.reg x).setWidth 16))

/-- FX29 LD F, Vx: the address of the glyph (R175). -/
def execLdFVx (x : RegIdx) (s : State) : Result := .next (s.setI (glyphAddr (s.reg x)))

/-- FX33 LD B, Vx: the three decimal digits at `I`, `I + 1`, `I + 2` (R174). -/
def execLdBVx (x : RegIdx) (s : State) : Result :=
  .next (((s.memWrite (indexAddr s.I 0) (hundreds (s.reg x))).memWrite (indexAddr s.I 1) (tens (s.reg x))).memWrite
    (indexAddr s.I 2) (ones (s.reg x)))

/-- The stores of FX55 for the listed register numbers, in order: `MemWrite(I + r, 1, V[r])` (R172). -/
def storeRegs : List Nat → State → State
  | [], s => s
  | r :: rs, s => storeRegs rs (s.memWrite (indexAddr s.I r) (s.reg (BitVec.ofNat 4 r)))

/-- The loads of FX65 for the listed register numbers, in order: `V[r] <- MemRead(I + r, 1)` (R173). -/
def loadRegs : List Nat → State → State
  | [], s => s
  | r :: rs, s => loadRegs rs (s.setReg (BitVec.ofNat 4 r) (s.memRead (indexAddr s.I r)))

/-- FX55 LD [I], Vx: registers 0 to x, ascending (R172). -/
def execLdMemVx (x : RegIdx) (s : State) : Result := .next (storeRegs (List.range (x.toNat + 1)) s)

/-- FX65 LD Vx, [I]: registers 0 to x, ascending (R173). -/
def execLdVxMem (x : RegIdx) (s : State) : Result := .next (loadRegs (List.range (x.toNat + 1)) s)

end Sys2Proof.Machine
end

