-- ==== Sys2Proof/Machine/Skips.lean ====
section
/-! DEFINITION. The six conditional skips (41_skips.md R120 to R127). -/

namespace Sys2Proof.Machine

/-- 3XKK SE Vx, byte (R121). -/
def execSeByte (x : RegIdx) (kk : Byte) (s : State) : Result := .next (s.skipIf (s.reg x == kk))

/-- 4XKK SNE Vx, byte (R122). -/
def execSneByte (x : RegIdx) (kk : Byte) (s : State) : Result := .next (s.skipIf (s.reg x != kk))

/-- 5XY0 SE Vx, Vy (R123). -/
def execSeReg (x y : RegIdx) (s : State) : Result := .next (s.skipIf (s.reg x == s.reg y))

/-- 9XY0 SNE Vx, Vy (R124). -/
def execSneReg (x y : RegIdx) (s : State) : Result := .next (s.skipIf (s.reg x != s.reg y))

/-- EX9E SKP Vx: skip if the key is pressed (R125, R126). -/
def execSkp (x : RegIdx) (s : State) : Result := .next (s.skipIf (keyPressed s.key (keyIndex (s.reg x))))

/-- EXA1 SKNP Vx: skip if the key is released (R125, R127). -/
def execSknp (x : RegIdx) (s : State) : Result := .next (s.skipIf (!keyPressed s.key (keyIndex (s.reg x))))

end Sys2Proof.Machine
end

