-- ==== Sys2Proof/Machine/TimersKeys.lean ====
section
/-! DEFINITION. Timer access and the key wait (45_timers_keys.md R210 to R213). -/

namespace Sys2Proof.Machine

/-- FX07 LD Vx, DT (R210). -/
def execLdVxDT (x : RegIdx) (s : State) : Result := .next (s.setReg x s.DT)

/-- FX15 LD DT, Vx (R211). -/
def execLdDTVx (x : RegIdx) (s : State) : Result := .next { s with DT := s.reg x }

/-- FX18 LD ST, Vx (R212). -/
def execLdSTVx (x : RegIdx) (s : State) : Result := .next { s with ST := s.reg x }

/-- The key wait's sample of the keypad and rewind to itself (R213). -/
def State.sampleAndRewind (s : State) : State := { s with kwSnap := s.key, kwPhase := .waiting }.rewind

/-- FX0A LD Vx, K (R213): the first execution arms the latch; a later one either finds a key that went from released to
pressed since the last sample, takes the lowest and goes on, or samples again and waits. -/
def execLdVxK (x : RegIdx) (s : State) : Result :=
  match s.kwPhase with
  | .idle => .next s.sampleAndRewind
  | .waiting =>
    match lowestKey (newlyPressed s.kwSnap s.key) with
    | none => .next s.sampleAndRewind
    | some k => .next { s.setReg x k with kwPhase := .idle }

end Sys2Proof.Machine
end

