-- ==== Sys2Proof/Machine/Step.lean ====
section
/-! DEFINITION. One step of the block (30_encoding.md R81): a fetch, a decode and an execute while Running; nothing in
Paused and Halted (60_exceptions.md R240). -/

namespace Sys2Proof.Machine

/-- One step: the port `op_step` (60_exceptions.md R245). -/
def step (s : State) : Host.Outcome State Fault Refusal :=
  match s.runState with
  | .running =>
    match decodeWord s.fetchWord with
    | .ok i => exec i s.fetch
    | .error _ => execUnknown s.fetch
  | .paused => .next s
  | .halted => .next s

/-- `s` with the word of an opcode-table row at `pc`, the high byte at the lower address, and Running, so that the next
step fetches and runs exactly that word (log 4). -/
def State.withFetchWord (s : State) (nbits w : Nat) : State :=
  { (s.memWrite s.pc ((tableWord nbits w).extractLsb' 8 8)).memWrite (s.pc + 1#16) ((tableWord nbits w).extractLsb' 0 8) with
    runState := .running }

end Sys2Proof.Machine
end

