-- ==== Sys2Proof/Machine/HostPort.lean ====
section
/-! DEFINITION. The block's interface to the host (60_exceptions.md R239 to R248, 70_reset_and_hazards.md R270 to
R272): the operations the host calls, one at a time and each indivisible, and the outputs it reads (log 17). -/

namespace Sys2Proof.Machine

/-- What the host gives a reset to load: an image of bytes, or a load the host reports as failed (R248, R272). -/
inductive RomImage where
  | image (bytes : List Byte)
  | unreadable
  deriving DecidableEq, Repr

/-- The host's operations (R245); the draw `rand_in` is `Config.rand8` (log 1). -/
inductive HostOp where
  /-- `op_step`: one step. -/
  | step
  /-- `op_tick`: one tick of the timers. -/
  | tick
  /-- `key_in`: all 16 key states at once (R243). -/
  | keyIn (keys : Keys)
  /-- `pause_toggle`. -/
  | pauseToggle
  /-- `quit`. -/
  | quit
  /-- `redraw_ack`: the frame acknowledge (R244). -/
  | redrawAck
  /-- `reset` with `rom_len` and `rom_data`. -/
  | reset (rom : RomImage)
  deriving DecidableEq, Repr

/-- The values of the output ports between operations (R245). -/
structure Outputs where
  pixOut : PixelBuffer
  needsRedrawOut : Bool
  soundActive : Bool
  dtOut : Byte
  stOut : Byte
  runStateOut : BitVec 2
  haltCauseOut : BitVec 3
  deriving DecidableEq, Repr

/-- The report of an unknown word: `err_word` and `err_addr` (R231, R245). -/
structure UnknownReport where
  word : Word
  addr : Addr
  deriving DecidableEq, Repr

/-- The codes of the run state (10_state.md R34). -/
def RunState.code : RunState → BitVec 2
  | .running => 0
  | .paused => 1
  | .halted => 2

/-- The codes of the halt cause (60_exceptions.md R230). -/
def HaltCause.code : HaltCause → BitVec 3
  | .none => 0
  | .stackOverflow => 2
  | .stackUnderflow => 3
  | .quit => 4
  | .initFailure => 5

/-- One timer, counted toward zero and never below (R241). -/
def tickDown (t : Byte) : Byte := if t > 0#8 then t - 1#8 else t

/-- The tick: both timers, in Running only (R240, R241). -/
def State.tick (s : State) : State :=
  match s.runState with
  | .running => { s with DT := tickDown s.DT, ST := tickDown s.ST }
  | .paused => s
  | .halted => s

/-- The pause toggle (R239). -/
def State.pauseToggle (s : State) : State :=
  match s.runState with
  | .running => { s with runState := .paused }
  | .paused => { s with runState := .running }
  | .halted => s

/-- The quit signal (R239). -/
def State.quit (s : State) : State :=
  match s.runState with
  | .running => { s with runState := .halted, haltCause := .quit }
  | .paused => { s with runState := .halted, haltCause := .quit }
  | .halted => s

/-- The frame acknowledge, in every run state (R244). -/
def State.redrawAck (s : State) : State := { s with needsRedraw := false }

/-- The host's write of the keypad, in every run state (R243, R240). -/
def State.keyIn (s : State) (keys : Keys) : State := { s with key := keys }

/-- The state after the reset sequence (70_reset_and_hazards.md R270): the reset values and the image from PROGBASE on;
or, if the load failed, nothing of the image, Halted with INIT_FAILURE (R248). -/
def afterReset (rom : RomImage) : State :=
  match rom with
  | .image bytes =>
    if bytes.length ≤ Config.romMax then
      { State.reset with mem := Memory.load State.reset.mem Config.progBase.toNat bytes }
    else { State.reset with runState := .halted, haltCause := .initFailure }
  | .unreadable => { State.reset with runState := .halted, haltCause := .initFailure }

/-- The `reset` port in any run state: all earlier state is discarded (R270). The model's own counter `draws` goes on,
since the random source is no state of the block and its next byte is fresh (log 1). -/
def State.hostReset (s : State) (rom : RomImage) : State := { afterReset rom with draws := s.draws }

/-- One host operation. -/
def perform (op : HostOp) (s : State) : Result :=
  match op with
  | .step => step s
  | .tick => .next s.tick
  | .keyIn keys => .next (s.keyIn keys)
  | .pauseToggle => .next s.pauseToggle
  | .quit => .next s.quit
  | .redrawAck => .next s.redrawAck
  | .reset rom => .next (s.hostReset rom)

/-- Host operations in the host's order (R236). -/
def performAll : List HostOp → State → Result
  | [], s => .next s
  | op :: ops, s =>
    match perform op s with
    | .next t => performAll ops t
    | .fault r => .fault r
    | .refused r => .refused r

/-- "Run N instructions": N step operations in a row (R246). -/
def runInstructions (n : Nat) (s : State) : Result := performAll (List.replicate n .step) s

/-- The sound output: `ST != 0` at all times (R242). -/
def State.soundActive (s : State) : Bool := s.ST != 0x00#8

/-- The output ports (R245). -/
def State.outputs (s : State) : Outputs :=
  { pixOut := s.pix
    needsRedrawOut := s.needsRedraw
    soundActive := s.soundActive
    dtOut := s.DT
    stOut := s.ST
    runStateOut := s.runState.code
    haltCauseOut := s.haltCause.code }

/-- Bit `k` of the port `pix_out`: bit `y*64 + x` is `pix[y][x]` (R245). -/
def Outputs.pixOutBit (o : Outputs) (k : Nat) : Bool := pixelAt o.pixOut (k % 64) (k / 64)

/-- The report that the step from `s` emits: the unknown word and its fetch address, or none (R231). It is an output of
that one step and no state (log 8). -/
def State.unknownReport (s : State) : Option UnknownReport :=
  match s.runState with
  | .running =>
    match decodeWord s.fetchWord with
    | .ok _ => none
    | .error _ => some { word := s.fetchWord, addr := s.pc.setWidth 12 }
  | .paused => none
  | .halted => none

end Sys2Proof.Machine
end

