-- ==== Sys2Proof/Safety.lean ====
section
/-! DEFINITION. The terms claims are stated in: the invariant of the states the block can be in, the frame of an
instruction, which instruction may write which element, what a program and a host can tell apart, and the parked
state. -/

namespace Sys2Proof.Machine

/-- The states the block can be in, as the spec describes them: a safe run stays inside. -/
structure State.Inv (s : State) : Prop where
  /-- The RAM's list is in its canonical form. -/
  mem_wf : s.mem.wf = true
  /-- Bits 15:12 of `pc` are 0 (10_state.md R26). -/
  pc_lt : s.pc.toNat < Config.memSize
  /-- Bits 15:12 of `I` are 0 (10_state.md R25). -/
  I_lt : s.I.toNat < Config.memSize
  /-- SP is 0 to 16 (10_state.md R27). -/
  SP_le : s.SP.toNat ≤ Config.stackDepth
  /-- The valid stack entries are return addresses, values of `pc` (10_state.md R27). -/
  stack_lt : ∀ (j : Nat) (h : j < Config.stackDepth), j < s.SP.toNat → (s.stack[j]'h).toNat < Config.memSize
  /-- The halt cause is 0 exactly while the block is not halted (10_state.md R35). -/
  halted_iff : s.runState = .halted ↔ s.haltCause ≠ .none
  /-- A key wait in progress has `pc` on its FX0A (10_state.md R36). -/
  waiting_at_key_wait : s.kwPhase = .waiting → ∃ x, decodeWord s.fetchWord = .ok (.ldVxK x)

/-- The elements of the state besides the general registers and the RAM. -/
inductive Elem where
  | pc | I | stack | SP | DT | ST | key | pix | needsRedraw | IR | runState | haltCause | kwPhase | kwSnap | draws
  deriving DecidableEq, Repr

/-- The element has the same value in both states. -/
def Elem.Same (e : Elem) (s t : State) : Prop :=
  match e with
  | .pc => t.pc = s.pc
  | .I => t.I = s.I
  | .stack => t.stack = s.stack
  | .SP => t.SP = s.SP
  | .DT => t.DT = s.DT
  | .ST => t.ST = s.ST
  | .key => t.key = s.key
  | .pix => t.pix = s.pix
  | .needsRedraw => t.needsRedraw = s.needsRedraw
  | .IR => t.IR = s.IR
  | .runState => t.runState = s.runState
  | .haltCause => t.haltCause = s.haltCause
  | .kwPhase => t.kwPhase = s.kwPhase
  | .kwSnap => t.kwSnap = s.kwSnap
  | .draws => t.draws = s.draws

/-- THE FRAME. From `s` to `t` nothing changes but the registers in `regs`, the bytes at the addresses in `stored`, and
the elements listed in `elems`. -/
structure ChangesOnly (regs : RegIdx → Prop) (stored : Word → Prop) (elems : List Elem) (s t : State) : Prop where
  regs_same : ∀ r, ¬ regs r → t.reg r = s.reg r
  mem_same : ∀ a, ¬ stored a → t.memRead a = s.memRead a
  elems_same : ∀ e, e ∉ elems → e.Same s t

/-- No register. -/
def noReg (_ : RegIdx) : Prop := False

/-- No byte of memory. -/
def noByte (_ : Word) : Prop := False

/-- The register `x` alone. -/
def onlyReg (x r : RegIdx) : Prop := r = x

/-- The register `x` and the flag register. -/
def regAndFlag (x r : RegIdx) : Prop := r = x ∨ r = 0xF#4

/-- The bytes at `I`, …, `I + (k - 1)`, reduced as the meanings reduce them. -/
def bytesFrom (i : Word) (k : Nat) (a : Word) : Prop := ∃ r, r < k ∧ addr12 a = indexAddr i r

end Sys2Proof.Machine

namespace Sys2Proof

open Machine

/-- Whether an instruction's execute phase may write the element (10_state.md R25 to R36, the writers of each). -/
def Instr.writes (i : Instr) (e : Elem) : Bool :=
  match e with
  | .pc =>
    match i with
    | .jp _ | .call _ | .ret | .jpV0 _ | .seByte _ _ | .sneByte _ _ | .seReg _ _ | .sneReg _ _ | .skp _ | .sknp _
    | .ldVxK _ => true
    | _ => false
  | .I => match i with | .ldI _ | .addIVx _ | .ldFVx _ => true | _ => false
  | .stack => match i with | .call _ => true | _ => false
  | .SP => match i with | .call _ | .ret => true | _ => false
  | .DT => match i with | .ldDTVx _ => true | _ => false
  | .ST => match i with | .ldSTVx _ => true | _ => false
  | .key => false
  | .pix => match i with | .cls | .drw _ _ _ => true | _ => false
  | .needsRedraw => match i with | .cls | .drw _ _ _ => true | _ => false
  | .IR => false
  | .runState => match i with | .call _ | .ret => true | _ => false
  | .haltCause => match i with | .call _ | .ret => true | _ => false
  | .kwPhase => match i with | .ldVxK _ => true | _ => false
  | .kwSnap => match i with | .ldVxK _ => true | _ => false
  | .draws => match i with | .rnd _ _ => true | _ => false

/-- Whether an instruction may write the register: as its destination, or VF as the flag (10_state.md R22, R24). -/
def Instr.writesReg (i : Instr) (r : RegIdx) : Bool :=
  match i with
  | .ldByte x _ | .addByte x _ | .ldReg x _ | .orReg x _ | .andReg x _ | .xorReg x _ | .rnd x _ | .ldVxDT x
  | .ldVxK x => r == x
  | .addReg x _ | .subReg x _ | .shr x _ | .subn x _ | .shl x _ => r == x || r == 0xF#4
  | .ldVxMem x => decide (r ≤ x)
  | .drw _ _ _ => r == 0xF#4
  | _ => false

/-- Whether an instruction may write the byte at `a` of the state it runs in: FX33 and FX55 alone do
(20_memory.md R59). -/
def Instr.writesByte (i : Instr) (s : State) (a : Word) : Prop :=
  match i with
  | .ldBVx _ => bytesFrom s.I 3 a
  | .ldMemVx x => bytesFrom s.I (x.toNat + 1) a
  | _ => False

end Sys2Proof

namespace Sys2Proof.Machine

/-- Two states that no program and no host can tell apart: they differ at most in `IR` (10_state.md R33: no instruction
reads it), in stack entries from SP on (R28: unobservable), and in the key wait's sample while no wait is in progress
(R38: FX0A writes it before reading it). -/
structure SameVisible (s t : State) : Prop where
  V : t.V = s.V
  I : t.I = s.I
  pc : t.pc = s.pc
  stack : ∀ (j : Nat) (h : j < Config.stackDepth), j < s.SP.toNat → t.stack[j]'h = s.stack[j]'h
  SP : t.SP = s.SP
  DT : t.DT = s.DT
  ST : t.ST = s.ST
  mem : t.mem = s.mem
  key : t.key = s.key
  pix : t.pix = s.pix
  needsRedraw : t.needsRedraw = s.needsRedraw
  runState : t.runState = s.runState
  haltCause : t.haltCause = s.haltCause
  kwPhase : t.kwPhase = s.kwPhase
  kwSnap : s.kwPhase = .waiting → t.kwSnap = s.kwSnap
  draws : t.draws = s.draws

/-- Whether the sprite of DXYN, drawn at the origin column `x0` and row `y0` of state `s`, has a set bit on pixel
(px, py) of the buffer (44_display.md R192: row `r` is the byte at `I + r`, the most significant bit leftmost; what
lies past the right or the bottom edge is clipped). -/
def spriteCovers (s : State) (x0 y0 n px py : Nat) : Prop :=
  px < 64 ∧ py < 32 ∧ y0 ≤ py ∧ py < y0 + n ∧ x0 ≤ px ∧ px < x0 + 8 ∧
    (s.memRead (indexAddr s.I (py - y0))).getLsbD (7 - (px - x0)) = true

/-- The state is parked at `p` (70_reset_and_hazards.md R281, log 18): Running, at a jump to itself. -/
structure State.ParkedAt (s : State) (p : Addr) : Prop where
  running : s.runState = .running
  pc : s.pc = addrOf p
  word : s.fetchWord = 0x1#4 ++ p

/-- A host operation other than reset. -/
def HostOp.isReset : HostOp → Bool
  | .reset _ => true
  | _ => false

end Sys2Proof.Machine
end

