-- ==== Sys2Proof/Certificates/Slice0/Obligations.lean ====
section
/-! DEFINITION. The statements about the model. Each docstring names the rules of spec/ it formalises; where a clause rests
on the spec's own decision or general knowledge, or on a choice of the model, the docstring says so. -/

open Sys2Proof Sys2Proof.Machine

/-! ### Reset -/

/-- 10_state.md section 13 (the table of reset values), with an empty ROM image. That the keypad, the pixels, the redraw
flag, IR, the stack entries and the key-wait sample are 0 is the spec's own decision D28 (log 3); nothing is said of the
model's own counter `draws`. -/
def Obligations.ResetElementValues : Prop :=
  (∀ r, State.reset.reg r = 0) ∧ State.reset.I = 0x0000 ∧ State.reset.pc = 0x0200 ∧ State.reset.SP = 0 ∧
  (∀ (j : Nat) (h : j < 16), State.reset.stack[j]'h = 0x0000) ∧ State.reset.DT = 0 ∧ State.reset.ST = 0 ∧
  State.reset.key = 0 ∧ (∀ px py, pixelAt State.reset.pix px py = false) ∧ State.reset.needsRedraw = false ∧
  State.reset.IR = 0x0000 ∧ State.reset.runState = .running ∧ State.reset.haltCause = .none ∧
  State.reset.kwPhase = .idle ∧ State.reset.kwSnap = 0

/-- 10_state.md section 13 and 20_memory.md sections 3 and 6: after reset with an empty ROM image the RAM holds the font
at 0x000 to 0x04F and zeros elsewhere. The base, the glyph bytes and the zeros are the spec's own decisions D16, D17,
D27 (log 2). -/
def Obligations.ResetMemoryIsFontAndZeros : Prop :=
  (List.range 80).map (fun a => State.reset.memRead (BitVec.ofNat 16 a)) =
    [0xF0, 0x90, 0x90, 0x90, 0xF0, 0x20, 0x60, 0x20, 0x20, 0x70, 0xF0, 0x10, 0xF0, 0x80, 0xF0, 0xF0, 0x10, 0xF0, 0x10, 0xF0,
     0x90, 0x90, 0xF0, 0x10, 0x10, 0xF0, 0x80, 0xF0, 0x10, 0xF0, 0xF0, 0x80, 0xF0, 0x90, 0xF0, 0xF0, 0x10, 0x20, 0x40, 0x40,
     0xF0, 0x90, 0xF0, 0x90, 0xF0, 0xF0, 0x90, 0xF0, 0x10, 0xF0, 0xF0, 0x90, 0xF0, 0x90, 0x90, 0xE0, 0x90, 0xE0, 0x90, 0xE0,
     0xF0, 0x80, 0x80, 0x80, 0xF0, 0xE0, 0x90, 0x90, 0x90, 0xE0, 0xF0, 0x80, 0xF0, 0x80, 0xF0, 0xF0, 0x80, 0xF0, 0x80, 0x80] ∧
  ∀ a : Word, 80 ≤ a.toNat → a.toNat < 4096 → State.reset.memRead a = 0

/-- 70_reset_and_hazards.md section 1 and 60_exceptions.md section 6: an image of at most 3584 bytes is stored verbatim
from 0x200, every other byte is as with an empty image, every other element has its reset value, and the block is
Running; a longer image, or an unreadable one, leaves the block Halted with code 5, nothing of the image loaded and
every other element at its reset value. Rejecting an oversized image is the spec's own decision D29 (log 15). -/
def Obligations.ResetLoadsOrRejectsTheImage : Prop :=
  (∀ bytes : List Byte, bytes.length ≤ 3584 →
    (∀ (k : Nat) (h : k < bytes.length), (afterReset (.image bytes)).memRead (0x200 + BitVec.ofNat 16 k) = bytes[k]'h) ∧
    (∀ a : Word, a.toNat < 0x200 ∨ 0x200 + bytes.length ≤ a.toNat → a.toNat < 4096 →
      (afterReset (.image bytes)).memRead a = State.reset.memRead a) ∧
    (∀ r, (afterReset (.image bytes)).reg r = State.reset.reg r) ∧
    (∀ e : Elem, e.Same State.reset (afterReset (.image bytes))) ∧
    (afterReset (.image bytes)).runState = .running) ∧
  ∀ rom : RomImage, (rom = .unreadable ∨ ∃ bytes, rom = .image bytes ∧ 3584 < bytes.length) →
    (afterReset rom).runState = .halted ∧ (afterReset rom).haltCause.code = 5 ∧
    ChangesOnly noReg noByte [.runState, .haltCause] State.reset (afterReset rom)

/-- R274: the entry point is 0x200, and the first step after a reset that loads fetches the word of the bytes at 0x200 and
0x201, which are the image's first two bytes when it has two. -/
def Obligations.FirstFetchAfterResetIsAtTheEntryPoint : Prop :=
  ∀ bytes : List Byte, bytes.length ≤ 3584 →
    (afterReset (.image bytes)).pc = 0x200 ∧
    ∃ t, step (afterReset (.image bytes)) = .next t ∧
      t.IR = (afterReset (.image bytes)).memRead 0x200 ++ (afterReset (.image bytes)).memRead 0x201 ∧
      ∀ b0 b1 rest, bytes = b0 :: b1 :: rest → t.IR = b0 ++ b1

/-! ### Encoding -/

/-- 30_encoding.md sections 2 and 5 and the words of 95_test_vectors.md, decoded. The bit patterns are the spec's general
knowledge (decision D1, log 11). -/
def Obligations.SpecWordsDecode : Prop :=
  decodeWord 0x6005 = .ok (.ldByte 0x0 0x05) ∧ decodeWord 0x8014 = .ok (.addReg 0x0 0x1) ∧
  decodeWord 0x00E0 = .ok .cls ∧ decodeWord 0x00EE = .ok .ret ∧ decodeWord 0x0123 = .ok (.sys 0x123) ∧
  decodeWord 0x2300 = .ok (.call 0x300) ∧ decodeWord 0x3342 = .ok (.seByte 0x3 0x42) ∧
  decodeWord 0xD125 = .ok (.drw 0x1 0x2 0x5) ∧ decodeWord 0xFA33 = .ok (.ldBVx 0xA) ∧
  decodeWord 0xF30A = .ok (.ldVxK 0x3) ∧ decodeWord 0x5121 = .error .unknown5 ∧ decodeWord 0xE09F = .error .unknownE

/-- 30_encoding.md section 2: every well-formed instruction, with every operand, is what its own word decodes to. -/
def Obligations.DecodeOfEncode : Prop :=
  ∀ i : Instr, i.wellFormed = true →
    decodeWord (encode i) = .ok i ∧ ∀ rest, decodeBytes (encodeBytes i ++ rest) = .ok (i, rest)

/-- 30_encoding.md sections 1 and 2: whatever bytes decode, they begin with exactly the two bytes of the instruction they
decode to, which is well-formed, and nothing but those two bytes is used. -/
def Obligations.DecodedBytesAreTheEncoding : Prop :=
  ∀ (bytes : List Byte) (i : Instr) (rest : List Byte), decodeBytes bytes = .ok (i, rest) →
    bytes = encodeBytes i ++ rest ∧ (encodeBytes i).length = 2 ∧ i.wellFormed = true

/-- 30_encoding.md section 3 (the table of unknown words), each with the name of its row. Which words of families 5 and 9
are unknown is the spec's own decision D9 (log 11). -/
def Obligations.UnknownWordsAreThoseOfTheTable : Prop :=
  ∀ w : Word,
    (decodeWord w = .error .unknown5 ↔ w.extractLsb' 12 4 = 0x5#4 ∧ w.extractLsb' 0 4 ≠ 0x0#4) ∧
    (decodeWord w = .error .unknown8 ↔
      w.extractLsb' 12 4 = 0x8#4 ∧ w.extractLsb' 0 4 ∈ [0x8#4, 0x9#4, 0xA#4, 0xB#4, 0xC#4, 0xD#4, 0xF#4]) ∧
    (decodeWord w = .error .unknown9 ↔ w.extractLsb' 12 4 = 0x9#4 ∧ w.extractLsb' 0 4 ≠ 0x0#4) ∧
    (decodeWord w = .error .unknownE ↔ w.extractLsb' 12 4 = 0xE#4 ∧ w.extractLsb' 0 8 ∉ [0x9E#8, 0xA1#8]) ∧
    (decodeWord w = .error .unknownF ↔ w.extractLsb' 12 4 = 0xF#4 ∧
      w.extractLsb' 0 8 ∉ [0x07#8, 0x0A#8, 0x15#8, 0x18#8, 0x1E#8, 0x29#8, 0x33#8, 0x55#8, 0x65#8]) ∧
    decodeWord w ≠ .error .truncated

/-! ### The step -/

/-- 30_encoding.md section 5: in Running, a step whose two bytes at `pc` and `addr12(pc + 1)` decode to an instruction is
that instruction's execute phase on the state after the fetch, which differs from the state before in `IR`, the fetched
word, and `pc`, moved on by 2. The 12-bit wrap is the spec's own decision D3 (log 6). -/
def Obligations.StepRunsDecodedInstruction : Prop :=
  ∀ (s : State) (i : Instr), s.runState = .running →
    decodeBytes [s.memRead s.pc, s.memRead (s.pc + 1#16)] = .ok (i, []) →
    step s = exec i s.fetch ∧ s.fetch.IR = s.memRead s.pc ++ s.memRead (s.pc + 1#16) ∧
    s.fetch.pc.toNat = (s.pc.toNat + 2) % 4096 ∧ ChangesOnly noReg noByte [.IR, .pc] s s.fetch

/-- 20_memory.md section 2 and 30_encoding.md section 5: the fetched word is big-endian, at every address of either
parity, and at 0xFFF its low byte is the byte at 0x000 (decisions D3 and D4, log 6). -/
def Obligations.FetchIsBigEndianAtEveryAddress : Prop :=
  ∀ s : State,
    s.fetchWord.extractLsb' 8 8 = s.mem.read (s.pc.toNat % 4096) ∧
    s.fetchWord.extractLsb' 0 8 = s.mem.read ((s.pc.toNat + 1) % 4096)

/-- 60_exceptions.md section 1: in Running, an unknown word is reported with its fetch address, and the step changes
nothing but what the fetch writes; a step that runs an instruction reports nothing, and neither does one in Paused or
Halted. The form of the report is the spec's own decision D25 (log 8); that `pc` and the reported address are reduced to
12 bits (30_encoding.md section 5, the fetch) is its decision D3 (log 6). -/
def Obligations.UnknownWordIsReportedAndIgnored : Prop :=
  ∀ s : State,
    (∀ r, s.runState = .running → decodeWord s.fetchWord = .error r →
      ∃ t, step s = .next t ∧ t.pc.toNat = (s.pc.toNat + 2) % 4096 ∧ t.IR = s.fetchWord ∧
        ChangesOnly noReg noByte [.pc, .IR] s t ∧
        ∃ rep, s.unknownReport = some rep ∧ rep.word = s.fetchWord ∧ rep.addr.toNat = s.pc.toNat % 4096) ∧
    (∀ i, decodeWord s.fetchWord = .ok i → s.unknownReport = none) ∧
    (s.runState ≠ .running → s.unknownReport = none)

/-! ### Arithmetic and logic -/

/-- R142. -/
def Obligations.LoadByteWritesItsRegister : Prop :=
  ∀ (x : RegIdx) (kk : Byte) (s : State),
    ∃ t, exec (.ldByte x kk) s = .next t ∧ t.reg x = kk ∧ ChangesOnly (onlyReg x) noByte [] s t

/-- R143: the sum modulo 256, and VF is written only as the destination. -/
def Obligations.AddByteWrapsWithoutFlag : Prop :=
  ∀ (x : RegIdx) (kk : Byte) (s : State),
    ∃ t, exec (.addByte x kk) s = .next t ∧ (t.reg x).toNat = ((s.reg x).toNat + kk.toNat) % 256 ∧
      ChangesOnly (onlyReg x) noByte [] s t

/-- 42_alu.md section 3: the register copy; it is the spec's general knowledge (decision D13, log 11). -/
def Obligations.LoadRegisterCopies : Prop :=
  ∀ (x y : RegIdx) (s : State),
    ∃ t, exec (.ldReg x y) s = .next t ∧ t.reg x = s.reg y ∧ ChangesOnly (onlyReg x) noByte [] s t

/-- R145, R146, R147: each bit of the destination, and no flag. -/
def Obligations.LogicWritesOnlyItsDestination : Prop :=
  ∀ (x y : RegIdx) (s : State),
    (∃ t, exec (.orReg x y) s = .next t ∧ ChangesOnly (onlyReg x) noByte [] s t ∧
      ∀ k, (t.reg x).getLsbD k = ((s.reg x).getLsbD k || (s.reg y).getLsbD k)) ∧
    (∃ t, exec (.andReg x y) s = .next t ∧ ChangesOnly (onlyReg x) noByte [] s t ∧
      ∀ k, (t.reg x).getLsbD k = ((s.reg x).getLsbD k && (s.reg y).getLsbD k)) ∧
    (∃ t, exec (.xorReg x y) s = .next t ∧ ChangesOnly (onlyReg x) noByte [] s t ∧
      ∀ k, (t.reg x).getLsbD k = ((s.reg x).getLsbD k ^^ (s.reg y).getLsbD k))

/-- 42_alu.md sections 1 and 3 (ADD Vx, Vy): the sum modulo 256, VF the carry unless VF is the destination. That the
sources are read before any write, for x or y = F, is the spec's own decision D10 (log 7). -/
def Obligations.AddRegistersSetsCarryThenSum : Prop :=
  ∀ (x y : RegIdx) (s : State),
    ∃ t, exec (.addReg x y) s = .next t ∧
      (t.reg x).toNat = ((s.reg x).toNat + (s.reg y).toNat) % 256 ∧
      (x ≠ 0xF#4 → t.reg 0xF#4 = if (s.reg x).toNat + (s.reg y).toNat > 255 then 1 else 0) ∧
      ChangesOnly (regAndFlag x) noByte [] s t

/-- 42_alu.md sections 1 and 3 (SUB, SUBN): the difference modulo 256, VF the no-borrow unless VF is the destination. That
the flag is 1 for equal operands, and that the sources are read first, are the spec's own decisions D12 and D10
(log 7, log 9). -/
def Obligations.SubtractionsSetNoBorrowThenDifference : Prop :=
  ∀ (x y : RegIdx) (s : State),
    (∃ t, exec (.subReg x y) s = .next t ∧
      (t.reg x).toNat = ((s.reg x).toNat + 256 - (s.reg y).toNat) % 256 ∧
      (x ≠ 0xF#4 → t.reg 0xF#4 = if (s.reg x).toNat ≥ (s.reg y).toNat then 1 else 0) ∧
      ChangesOnly (regAndFlag x) noByte [] s t) ∧
    (∃ t, exec (.subn x y) s = .next t ∧
      (t.reg x).toNat = ((s.reg y).toNat + 256 - (s.reg x).toNat) % 256 ∧
      (x ≠ 0xF#4 → t.reg 0xF#4 = if (s.reg y).toNat ≥ (s.reg x).toNat then 1 else 0) ∧
      ChangesOnly (regAndFlag x) noByte [] s t)

/-- 42_alu.md sections 1 and 3 (SHR, SHL): the value halved or doubled, VF the bit moved out unless VF is the destination,
whatever y is. That `V[x]` is the register shifted is the spec's own decision D11 (log 10). -/
def Obligations.ShiftsMoveOneBitIntoTheFlag : Prop :=
  ∀ (x y : RegIdx) (s : State),
    (∃ t, exec (.shr x y) s = .next t ∧ (t.reg x).toNat = (s.reg x).toNat / 2 ∧
      (x ≠ 0xF#4 → (t.reg 0xF#4).toNat = (s.reg x).toNat % 2) ∧ ChangesOnly (regAndFlag x) noByte [] s t) ∧
    (∃ t, exec (.shl x y) s = .next t ∧ (t.reg x).toNat = (s.reg x).toNat * 2 % 256 ∧
      (x ≠ 0xF#4 → (t.reg 0xF#4).toNat = (s.reg x).toNat / 128) ∧ ChangesOnly (regAndFlag x) noByte [] s t)

/-- 42_alu.md section 4: the destination is a fresh draw masked by kk, so its bits outside kk are 0 whatever the draw, and
the draw is used up. The draw is the free value `Config.rand8` (decision D21, log 1); this holds for every value of it. -/
def Obligations.RandomIsAMaskedFreshDraw : Prop :=
  ∀ (x : RegIdx) (kk : Byte) (s : State),
    ∃ t, exec (.rnd x kk) s = .next t ∧
      (∀ k, (t.reg x).getLsbD k = ((Config.rand8 s.draws).getLsbD k && kk.getLsbD k)) ∧
      t.draws = s.draws + 1 ∧ ChangesOnly (onlyReg x) noByte [.draws] s t

/-! ### Control transfer -/

/-- 40_control.md, SYS addr: a defined instruction that does nothing (decision D8, log 11). -/
def Obligations.SysChangesNothing : Prop :=
  ∀ (nnn : Addr) (s : State), exec (.sys nnn) s = .next s

/-- R101. -/
def Obligations.JumpSetsTheProgramCounter : Prop :=
  ∀ (nnn : Addr) (s : State),
    ∃ t, exec (.jp nnn) s = .next t ∧ t.pc.toNat = nnn.toNat ∧ ChangesOnly noReg noByte [.pc] s t

/-- 40_control.md, JP V0, addr: the register is V0 whatever the address field; the 12-bit wrap is decision D3 (log 6). -/
def Obligations.IndirectJumpAddsRegisterZero : Prop :=
  ∀ (nnn : Addr) (s : State),
    ∃ t, exec (.jpV0 nnn) s = .next t ∧ t.pc.toNat = (nnn.toNat + (s.reg 0x0#4).toNat) % 4096 ∧
      ChangesOnly noReg noByte [.pc] s t

/-- 40_control.md, CALL addr, with room on the stack: the new entry is `pc`, the older entries and all others stay, and
the entry's place is the old depth. -/
def Obligations.CallPushesTheReturnAddress : Prop :=
  ∀ (nnn : Addr) (s : State) (h : s.SP.toNat < 16),
    ∃ t, exec (.call nnn) s = .next t ∧ t.pc.toNat = nnn.toNat ∧ t.SP.toNat = s.SP.toNat + 1 ∧
      t.stack[s.SP.toNat]'h = s.pc ∧ (∀ (j : Nat) (hj : j < 16), j ≠ s.SP.toNat → t.stack[j]'hj = s.stack[j]'hj) ∧
      ChangesOnly noReg noByte [.pc, .SP, .stack] s t

/-- 40_control.md, RET, with a valid entry: `pc` is the newest entry, reduced as every value written to `pc` is (the spec's
own decision D3, log 6), and no entry is cleared. -/
def Obligations.ReturnPopsTheNewestEntry : Prop :=
  ∀ (s : State) (_h0 : 0 < s.SP.toNat) (h16 : s.SP.toNat ≤ 16),
    ∃ t, exec .ret s = .next t ∧ t.pc.toNat = (s.stack[s.SP.toNat - 1]'(by omega)).toNat % 4096 ∧
      t.SP.toNat = s.SP.toNat - 1 ∧ ChangesOnly noReg noByte [.pc, .SP] s t

/-- 60_exceptions.md sections 1 and 2: a call with 16 entries and a return with none enter Halted with codes 2 and 3 and
change nothing else; so `pc` keeps the fetch's value. What stays unchanged is the spec's own decision D23, the codes D24
(log 13). -/
def Obligations.StackErrorsAreFatalAndChangeNothingElse : Prop :=
  ∀ (nnn : Addr) (s : State),
    (s.SP = 16#8 → ∃ t, exec (.call nnn) s = .next t ∧ t.runState = .halted ∧ t.haltCause.code = 2 ∧
      ChangesOnly noReg noByte [.runState, .haltCause] s t) ∧
    (s.SP = 0#8 → ∃ t, exec .ret s = .next t ∧ t.runState = .halted ∧ t.haltCause.code = 3 ∧
      ChangesOnly noReg noByte [.runState, .haltCause] s t)

/-- 40_control.md, CALL and RET together: a return, from whatever state has the stack and depth the call left, comes back
to the instruction after the call, and the depth and the older entries are as before the call. -/
def Obligations.ReturnComesBackToAfterTheCall : Prop :=
  ∀ (nnn : Addr) (s t u : State), s.SP.toNat < 16 → s.pc.toNat < 4096 → exec (.call nnn) s = .next t →
    u.SP = t.SP → u.stack = t.stack →
    ∃ v, exec .ret u = .next v ∧ v.pc = s.pc ∧ v.SP = s.SP ∧
      ∀ (j : Nat) (hj : j < 16), j < s.SP.toNat → v.stack[j]'hj = s.stack[j]'hj

/-! ### Skips -/

/-- 41_skips.md (SE, SNE): on a match `pc` moves on by 2 more, otherwise nothing changes at all. Which encoding tests
equality is the spec's general knowledge, the wrap decision D3 (log 6, log 11). -/
def Obligations.RegisterSkipsMoveOverOneInstruction : Prop :=
  ∀ (x y : RegIdx) (kk : Byte) (s : State),
    (∃ t, exec (.seByte x kk) s = .next t ∧ ChangesOnly noReg noByte [.pc] s t ∧
      (s.reg x = kk → t.pc.toNat = (s.pc.toNat + 2) % 4096) ∧ (s.reg x ≠ kk → t.pc = s.pc)) ∧
    (∃ t, exec (.sneByte x kk) s = .next t ∧ ChangesOnly noReg noByte [.pc] s t ∧
      (s.reg x ≠ kk → t.pc.toNat = (s.pc.toNat + 2) % 4096) ∧ (s.reg x = kk → t.pc = s.pc)) ∧
    (∃ t, exec (.seReg x y) s = .next t ∧ ChangesOnly noReg noByte [.pc] s t ∧
      (s.reg x = s.reg y → t.pc.toNat = (s.pc.toNat + 2) % 4096) ∧ (s.reg x ≠ s.reg y → t.pc = s.pc)) ∧
    (∃ t, exec (.sneReg x y) s = .next t ∧ ChangesOnly noReg noByte [.pc] s t ∧
      (s.reg x ≠ s.reg y → t.pc.toNat = (s.pc.toNat + 2) % 4096) ∧ (s.reg x = s.reg y → t.pc = s.pc))

/-- 41_skips.md (SKP, SKNP): the key tested is the low four bits of the register. That index rule is the spec's own
decision D18, the two senses its general knowledge (log 11, log 12). -/
def Obligations.KeySkipsTestTheLowFourBits : Prop :=
  ∀ (x : RegIdx) (s : State),
    (∃ t, exec (.skp x) s = .next t ∧ ChangesOnly noReg noByte [.pc] s t ∧
      (s.key.getLsbD ((s.reg x).toNat % 16) = true → t.pc.toNat = (s.pc.toNat + 2) % 4096) ∧
      (s.key.getLsbD ((s.reg x).toNat % 16) = false → t.pc = s.pc)) ∧
    (∃ t, exec (.sknp x) s = .next t ∧ ChangesOnly noReg noByte [.pc] s t ∧
      (s.key.getLsbD ((s.reg x).toNat % 16) = false → t.pc.toNat = (s.pc.toNat + 2) % 4096) ∧
      (s.key.getLsbD ((s.reg x).toNat % 16) = true → t.pc = s.pc))

/-! ### The index register and memory -/

/-- 43_memory_index.md (LD I, ADD I, LD F): the new value of `I`, and VF is not written. ANNN and the add are the spec's
general knowledge (D14, D15), the wrap D3, the font base D16 (log 2, log 6, log 11). -/
def Obligations.IndexRegisterWrites : Prop :=
  ∀ (nnn : Addr) (x : RegIdx) (s : State),
    (∃ t, exec (.ldI nnn) s = .next t ∧ t.I.toNat = nnn.toNat ∧ ChangesOnly noReg noByte [.I] s t) ∧
    (∃ t, exec (.addIVx x) s = .next t ∧ t.I.toNat = (s.I.toNat + (s.reg x).toNat) % 4096 ∧
      ChangesOnly noReg noByte [.I] s t) ∧
    (∃ t, exec (.ldFVx x) s = .next t ∧ t.I.toNat = 5 * (s.reg x).toNat ∧ ChangesOnly noReg noByte [.I] s t)

/-- 43_memory_index.md (LD [I], Vx): registers 0 to x in the bytes from `I` on, no other byte, and `I` stays. The 12-bit
wrap of the addresses is decision D3 (log 6). The premise is the invariant that the RAM's list is canonical. -/
def Obligations.StoreBlockWritesTheRegisters : Prop :=
  ∀ (x : RegIdx) (s : State), s.mem.wf = true →
    ∃ t, exec (.ldMemVx x) s = .next t ∧
      (∀ r : RegIdx, r.toNat ≤ x.toNat → t.memRead (indexAddr s.I r.toNat) = s.reg r) ∧
      ChangesOnly noReg (bytesFrom s.I (x.toNat + 1)) [] s t

/-- 43_memory_index.md (LD Vx, [I]): registers 0 to x from the bytes from `I` on; no other register, no byte, and `I`
stays. The 12-bit wrap of the addresses is decision D3 (log 6). -/
def Obligations.LoadBlockReadsTheRegisters : Prop :=
  ∀ (x : RegIdx) (s : State),
    ∃ t, exec (.ldVxMem x) s = .next t ∧
      (∀ r : RegIdx, r.toNat ≤ x.toNat → t.reg r = s.mem.read ((s.I.toNat + r.toNat) % 4096)) ∧
      ChangesOnly (fun r => r.toNat ≤ x.toNat) noByte [] s t

/-- 43_memory_index.md (LD B): three digits below 10 whose number is `V[x]`, hundreds first, in the bytes from `I` on,
and no other byte. The 12-bit wrap of the addresses is decision D3 (log 6). The premise is the invariant that the RAM's
list is canonical. -/
def Obligations.BcdStoresTheThreeDigits : Prop :=
  ∀ (x : RegIdx) (s : State), s.mem.wf = true →
    ∃ t, exec (.ldBVx x) s = .next t ∧
      (t.memRead (indexAddr s.I 0)).toNat < 10 ∧ (t.memRead (indexAddr s.I 1)).toNat < 10 ∧
      (t.memRead (indexAddr s.I 2)).toNat < 10 ∧
      100 * (t.memRead (indexAddr s.I 0)).toNat + 10 * (t.memRead (indexAddr s.I 1)).toNat +
        (t.memRead (indexAddr s.I 2)).toNat = (s.reg x).toNat ∧
      ChangesOnly noReg (bytesFrom s.I 3) [] s t

/-- 20_memory.md section 2 at the machine's own accesses: a read after a write of the same byte gives the byte
written, at addresses reduced to 12 bits; every other byte and every other element is as before; the canonical form is
kept; a fetch is two byte reads. The reduction is the spec's own decision D3, the canonical form the model's (log 2,
log 6). The premise is that invariant. -/
def Obligations.MemoryIsReadAsWritten : Prop :=
  ∀ (s : State) (a : Word) (v : Byte), s.mem.wf = true →
    (s.memWrite a v).mem.wf = true ∧
    (∀ b : Word, b.toNat % 4096 = a.toNat % 4096 → (s.memWrite a v).memRead b = v) ∧
    (∀ b : Word, b.toNat % 4096 ≠ a.toNat % 4096 → (s.memWrite a v).memRead b = s.memRead b) ∧
    ChangesOnly noReg (fun b => b.toNat % 4096 = a.toNat % 4096) [] s (s.memWrite a v) ∧
    s.fetchWord = s.memRead s.pc ++ s.memRead (s.pc + 1#16)

/-- The model's form of memory: two canonical lists that read alike at every address of the RAM are the same list, so
equal contents are equal states. -/
def Obligations.CanonicalMemoriesAreEqualByContents : Prop :=
  ∀ m m' : Memory, m.wf = true → m'.wf = true → (∀ a, a < 4096 → m.read a = m'.read a) → m = m'

/-- 20_memory.md sections 5 (coherence and mixed widths): a store by FX55 into the word at `pc` is what the very next
fetch reads, each byte it stores in its half of the word and the other half as before. That no flush is needed is
decision D6 (log 14). The premise is that the RAM's list is canonical. -/
def Obligations.StoresAreSeenByTheNextFetch : Prop :=
  ∀ (x : RegIdx) (s t : State), s.mem.wf = true → exec (.ldMemVx x) s = .next t →
    (∀ r : RegIdx, r.toNat ≤ x.toNat → indexAddr s.I r.toNat = addr12 s.pc → t.fetchWord.extractLsb' 8 8 = s.reg r) ∧
    (∀ r : RegIdx, r.toNat ≤ x.toNat → indexAddr s.I r.toNat = addr12 (s.pc + 1#16) →
      t.fetchWord.extractLsb' 0 8 = s.reg r) ∧
    (¬ bytesFrom s.I (x.toNat + 1) s.pc → t.fetchWord.extractLsb' 8 8 = s.fetchWord.extractLsb' 8 8) ∧
    (¬ bytesFrom s.I (x.toNat + 1) (s.pc + 1#16) → t.fetchWord.extractLsb' 0 8 = s.fetchWord.extractLsb' 0 8)

/-! ### Display -/

/-- R191. -/
def Obligations.ClearScreenTurnsEveryPixelOff : Prop :=
  ∀ s : State,
    ∃ t, exec .cls s = .next t ∧ (∀ px py, pixelAt t.pix px py = false) ∧ t.needsRedraw = true ∧
      ChangesOnly noReg noByte [.pix, .needsRedraw] s t

/-- 44_display.md, DRW: a pixel toggles iff the sprite has a set bit on it, VF says whether one of those was on, and the
redraw flag is set on every execution; the origin uses the values before VF is written. The corners n = 0 and VF as an
operand are the spec's own decision D20, the wrap of the sprite's addresses D3 (log 6, log 7). -/
def Obligations.DrawTogglesThePixelsOfTheSprite : Prop :=
  ∀ (x y : RegIdx) (n : Nibble) (s : State),
    ∃ t, exec (.drw x y n) s = .next t ∧ t.needsRedraw = true ∧
      (∀ px py, spriteCovers s ((s.reg x).toNat % 64) ((s.reg y).toNat % 32) n.toNat px py →
        pixelAt t.pix px py = !pixelAt s.pix px py) ∧
      (∀ px py, ¬ spriteCovers s ((s.reg x).toNat % 64) ((s.reg y).toNat % 32) n.toNat px py →
        pixelAt t.pix px py = pixelAt s.pix px py) ∧
      ((∃ px py, spriteCovers s ((s.reg x).toNat % 64) ((s.reg y).toNat % 32) n.toNat px py ∧
        pixelAt s.pix px py = true) → t.reg 0xF#4 = 1) ∧
      ((¬ ∃ px py, spriteCovers s ((s.reg x).toNat % 64) ((s.reg y).toNat % 32) n.toNat px py ∧
        pixelAt s.pix px py = true) → t.reg 0xF#4 = 0) ∧
      ChangesOnly (onlyReg 0xF#4) noByte [.pix, .needsRedraw] s t

/-- 44_display.md section on the self-inverse, derived there from DRW: the same sprite drawn twice at the same origin
gives the pixels back, and the second draw's flag is 1 iff the sprite has a set bit inside the buffer on a pixel that
was off before the first. It holds from every state from which the first draw leaves the two origin registers as they
were. VF as an operand is the spec's own decision D20 (log 7), the wrap of the sprite's addresses D3 (log 6). -/
def Obligations.DrawingTwiceRestoresThePixels : Prop :=
  ∀ (x y : RegIdx) (n : Nibble) (s t : State), exec (.drw x y n) s = .next t →
    t.reg x = s.reg x → t.reg y = s.reg y →
    ∃ u, exec (.drw x y n) t = .next u ∧ u.pix = s.pix ∧
      (u.reg 0xF#4 = 1 ↔ ∃ px py, spriteCovers s ((s.reg x).toNat % 64) ((s.reg y).toNat % 32) n.toNat px py ∧
        pixelAt s.pix px py = false) ∧
      (u.reg 0xF#4 = 1 ∨ u.reg 0xF#4 = 0)

/-! ### Timers, sound and the key wait -/

/-- R211 and R212: the timers are written from the register, and the sound output follows ST at once. -/
def Obligations.TimerWritesTakeTheRegister : Prop :=
  ∀ (x : RegIdx) (s : State),
    (∃ t, exec (.ldDTVx x) s = .next t ∧ t.DT = s.reg x ∧ ChangesOnly noReg noByte [.DT] s t) ∧
    (∃ t, exec (.ldSTVx x) s = .next t ∧ t.ST = s.reg x ∧ (t.soundActive = true ↔ s.reg x ≠ 0) ∧
      ChangesOnly noReg noByte [.ST] s t)

/-- 45_timers_keys.md, LD Vx, DT: the register takes the delay timer, which stays, so a second read gives the same. -/
def Obligations.DelayTimerIsReadIntoTheRegister : Prop :=
  ∀ (x y : RegIdx) (s : State),
    ∃ t, exec (.ldVxDT x) s = .next t ∧ t.reg x = s.DT ∧ ChangesOnly (onlyReg x) noByte [] s t ∧
      ∃ u, exec (.ldVxDT y) t = .next u ∧ u.reg y = s.DT

/-- 60_exceptions.md section 5, the tick: a tick in Running counts both timers down by one, never below 0, and changes
nothing else; so n ticks in a row take n off, stopping at 0; and no instruction's execute phase changes a timer but the
writes of FX15 and FX18. -/
def Obligations.TicksCountBothTimersDownToZero : Prop :=
  (∀ s : State, s.runState = .running →
    ∃ t, perform .tick s = .next t ∧ t.DT.toNat = s.DT.toNat - 1 ∧ t.ST.toNat = s.ST.toNat - 1 ∧
      ChangesOnly noReg noByte [.DT, .ST] s t) ∧
  (∀ (n : Nat) (s : State), s.runState = .running →
    ∃ t, performAll (List.replicate n .tick) s = .next t ∧ t.DT.toNat = s.DT.toNat - n ∧ t.ST.toNat = s.ST.toNat - n ∧
      ChangesOnly noReg noByte [.DT, .ST] s t) ∧
  ∀ (i : Instr) (s t : State), exec i s = .next t →
    ((∀ x, i ≠ .ldDTVx x) → t.DT = s.DT) ∧ ((∀ x, i ≠ .ldSTVx x) → t.ST = s.ST)

/-- 45_timers_keys.md, LD Vx, K, while it waits: the first execution, and every later one that finds no key newly pressed,
samples the keypad, leaves the latch Waiting and takes `pc` back by 2; nothing else changes. The latch is the spec's own
decision D19, the wrap D3 (log 6, log 12). -/
def Obligations.KeyWaitSamplesAndWaits : Prop :=
  ∀ (x : RegIdx) (s : State),
    (s.kwPhase = .idle ∨ ∀ k, k < 16 → ¬ (s.kwSnap.getLsbD k = false ∧ s.key.getLsbD k = true)) →
    ∃ t, exec (.ldVxK x) s = .next t ∧ t.kwPhase = .waiting ∧ t.kwSnap = s.key ∧
      t.pc.toNat = (s.pc.toNat + 4094) % 4096 ∧ ChangesOnly noReg noByte [.kwPhase, .kwSnap, .pc] s t

/-- 45_timers_keys.md, LD Vx, K, when it ends: Waiting, with key k the lowest that went from released to pressed since the
sample, the register takes k and the latch is Idle; `pc` and everything else stay. That the lowest of several keys wins
is the spec's own decision D19 (log 12). -/
def Obligations.KeyWaitTakesTheLowestNewKey : Prop :=
  ∀ (x : RegIdx) (s : State) (k : Nat), s.kwPhase = .waiting → k < 16 →
    s.kwSnap.getLsbD k = false → s.key.getLsbD k = true →
    (∀ j, j < k → ¬ (s.kwSnap.getLsbD j = false ∧ s.key.getLsbD j = true)) →
    ∃ t, exec (.ldVxK x) s = .next t ∧ (t.reg x).toNat = k ∧ t.kwPhase = .idle ∧
      ChangesOnly (onlyReg x) noByte [.kwPhase] s t

/-- 45_timers_keys.md, LD Vx, K, as a step: from an FX0A at an address of the RAM, a step that leaves the latch Waiting is
back at that address with the same word there, and one that leaves it Idle is past it. The latch is the spec's own
decision D19 (log 12), the wrap D3 (log 6). -/
def Obligations.KeyWaitStepStaysOnItself : Prop :=
  ∀ (x : RegIdx) (s t : State), s.runState = .running → s.pc.toNat < 4096 →
    decodeWord s.fetchWord = .ok (.ldVxK x) → step s = .next t →
    (t.kwPhase = .waiting → t.pc = s.pc ∧ t.fetchWord = s.fetchWord) ∧
    (t.kwPhase = .idle → t.pc.toNat = (s.pc.toNat + 2) % 4096)

/-! ### Run control and the host -/

/-- 60_exceptions.md section 4 (the table of transitions): pause toggle and quit from each run state. The pausing and the
ignored events in Halted are the spec's own decision D26, the code D24 (log 13). -/
def Obligations.PauseAndQuitFollowTheTable : Prop :=
  ∀ s : State,
    (s.runState = .running → perform .pauseToggle s = .next { s with runState := .paused }) ∧
    (s.runState = .paused → perform .pauseToggle s = .next { s with runState := .running }) ∧
    (s.runState ≠ .halted → ∃ t, perform .quit s = .next t ∧ t.runState = .halted ∧ t.haltCause.code = 4 ∧
      ChangesOnly noReg noByte [.runState, .haltCause] s t) ∧
    (s.runState = .halted → perform .pauseToggle s = .next s ∧ perform .quit s = .next s)

/-- 60_exceptions.md section 4: in Paused and in Halted a step and a tick change nothing, while the keypad may still be
written and a frame acknowledged. That a pause stops ticks is the spec's own decision D26 (log 13). -/
def Obligations.PausedAndHaltedDoNothing : Prop :=
  ∀ (s : State) (keys : Keys), s.runState ≠ .running →
    perform .step s = .next s ∧ perform .tick s = .next s ∧
    perform (.keyIn keys) s = .next { s with key := keys } ∧ perform .redrawAck s = .next { s with needsRedraw := false }

/-- 60_exceptions.md section 2, Halted is terminal: from a Halted state, whatever the host does short of a reset, the
block stays Halted with the same cause, changes nothing but the keypad and the redraw flag, and reports nothing; a reset
that loads rebuilds the whole state, Running again (the model's own counter `draws` apart, log 1); and an unknown word
does not end the run. That Halted ignores every event but a reset is the spec's own decision D26 (log 13). -/
def Obligations.HaltedIsTerminalUntilReset : Prop :=
  (∀ (ops : List HostOp) (s : State), s.runState = .halted → (∀ op ∈ ops, op.isReset = false) →
    ∃ t, performAll ops s = .next t ∧ t.runState = .halted ∧ t.haltCause = s.haltCause ∧
      ChangesOnly noReg noByte [.key, .needsRedraw] s t ∧ t.unknownReport = none) ∧
  (∀ (bytes : List Byte) (s : State), bytes.length ≤ 3584 →
    ∃ t, perform (.reset (.image bytes)) s = .next t ∧ t.runState = .running ∧
      t = { afterReset (.image bytes) with draws := s.draws }) ∧
  ∀ (s : State) (r : Reject), s.runState = .running → decodeWord s.fetchWord = .error r →
    ∃ t, step s = .next t ∧ t.runState = .running

/-- 60_exceptions.md section 6 on "run N instructions": N steps are M steps and then the rest, and once a step has halted
the block the remaining ones have no effect (decisions D31 and D38, log 16). -/
def Obligations.RunningInstructionsStopsAtHalt : Prop :=
  ∀ (m n : Nat) (s t : State), runInstructions m s = .next t →
    runInstructions (m + n) s = runInstructions n t ∧
    (t.runState = .halted → runInstructions (m + n) s = .next t)

/-- 60_exceptions.md section 6, the display: a frame acknowledge clears the redraw flag and nothing else, in every run
state; the output port shows pixel (px, py) at bit py*64 + px, and the redraw flag; and of the host's operations only a
step and a reset change a pixel. The port's layout is the spec's own decision D30 (log 17). -/
def Obligations.FrameAcknowledgeClearsOnlyTheRedrawFlag : Prop :=
  (∀ s : State, ∃ t, perform .redrawAck s = .next t ∧ t.needsRedraw = false ∧
    ChangesOnly noReg noByte [.needsRedraw] s t) ∧
  (∀ (s : State) (px py : Nat), px < 64 → py < 32 →
    s.outputs.pixOutBit (py * 64 + px) = pixelAt s.pix px py ∧ s.outputs.needsRedrawOut = s.needsRedraw) ∧
  ∀ (op : HostOp) (s t : State), op ≠ .step → op.isReset = false → perform op s = .next t → t.pix = s.pix

/-- 10_state.md section 7: no instruction writes the keypad; an instruction other than EX9E, EXA1 and FX0A does the same
whatever the keypad holds; the host's write replaces all 16 states, 1 = pressed, and changes nothing else. That it
replaces all of them at once is the spec's own decision D34 (log 17). -/
def Obligations.KeypadIsTheHostsAlone : Prop :=
  (∀ (i : Instr) (s t : State), exec i s = .next t → t.key = s.key) ∧
  (∀ (i : Instr) (s t : State) (keys : Keys), (∀ x, i ≠ .skp x ∧ i ≠ .sknp x ∧ i ≠ .ldVxK x) →
    exec i s = .next t → exec i { s with key := keys } = .next { t with key := keys }) ∧
  ∀ (s : State) (keys : Keys), ∃ t, perform (.keyIn keys) s = .next t ∧ (∀ k, t.key.getLsbD k = keys.getLsbD k) ∧
    ChangesOnly noReg noByte [.key] s t

/-! ### Rules over all instructions -/

/-- 10_state.md sections 2 to 11 and 20_memory.md section 4, the writers of each element: an instruction that is not one
of an element's writers leaves it as it was; so only CALL and RET touch the stack's depth, only CLS and DRW the pixels,
only FX33 and FX55 memory, only FX0A the latch, and a register is written only as a destination or as the flag. -/
def Obligations.OnlyItsWritersChangeAnElement : Prop :=
  ∀ (i : Instr) (s t : State), exec i s = .next t →
    (∀ e : Elem, i.writes e = false → e.Same s t) ∧
    (∀ r : RegIdx, i.writesReg r = false → t.reg r = s.reg r) ∧
    (∀ a : Word, ¬ i.writesByte s a → t.memRead a = s.memRead a)

/-- 60_exceptions.md sections 1, 2 and 3: no instruction changes the run state or the cause but a call on a full stack
and a return on an empty one. -/
def Obligations.OnlyStackErrorsChangeTheRunState : Prop :=
  ∀ (i : Instr) (s t : State), exec i s = .next t → (t.runState ≠ s.runState ∨ t.haltCause ≠ s.haltCause) →
    (∃ nnn, i = .call nnn ∧ s.SP = 16#8 ∧ t.haltCause = .stackOverflow ∧ t.runState = .halted) ∨
    (i = .ret ∧ s.SP = 0#8 ∧ t.haltCause = .stackUnderflow ∧ t.runState = .halted)

/-- 10_state.md section 5: with SP in its legal range every instruction answers a next state; above it the model faults,
by name, for CALL and RET and for nothing else (the model's choice, log 5). -/
def Obligations.EveryInstructionCompletesInLegalStates : Prop :=
  (∀ (i : Instr) (s : State), s.SP.toNat ≤ 16 → ∃ t, exec i s = .next t) ∧
  (∀ (i : Instr) (s : State), 16 < s.SP.toNat →
    ((∃ nnn, i = .call nnn) ∨ i = .ret → exec i s = .fault .illegalStackPointer) ∧
    (¬ ((∃ nnn, i = .call nnn) ∨ i = .ret) → ∃ t, exec i s = .next t))

/-- The state after reset is one the block can be in. -/
def Obligations.ResetSatisfiesTheInvariant : Prop := State.reset.Inv

/-- 10_state.md (the legal values of `pc`, `I`, SP, the stack entries, the halt cause and the latch): a step from a state
the block can be in leads to one. -/
def Obligations.StepKeepsTheInvariant : Prop :=
  ∀ s t : State, s.Inv → step s = .next t → t.Inv

/-- 60_exceptions.md sections 2 and 6: from a state the block can be in, every sequence of host operations, in every
order, runs to its end without a fault or a refusal and ends in such a state. -/
def Obligations.EveryHostSequenceIsSafe : Prop :=
  ∀ (ops : List HostOp) (s : State), s.Inv → ∃ t, performAll ops s = .next t ∧ t.Inv

/-- 10_state.md: IR of an earlier step, stack entries from SP on, and the key wait's sample outside a wait are never read:
from states that differ in nothing else, every host operation has the same outcome, the same outputs and the same report,
up to the same elements. -/
def Obligations.InvisibleStateNeverMatters : Prop :=
  ∀ (op : HostOp) (s s' : State), SameVisible s s' →
    s'.outputs = s.outputs ∧ s'.unknownReport = s.unknownReport ∧
    (∀ t, perform op s = .next t → ∃ t', perform op s' = .next t' ∧ SameVisible t t') ∧
    (∀ r, perform op s = .fault r → perform op s' = .fault r)

/-- 70_reset_and_hazards.md section 5: a parked state (the spec's own definition, decision D39, log 18) stays parked,
any number of steps changing nothing but IR, and a tick keeps it parked. -/
def Obligations.ParkedStaysParked : Prop :=
  ∀ (p : Addr) (s : State), s.ParkedAt p →
    (∀ n, ∃ t, runInstructions n s = .next t ∧ t.ParkedAt p ∧ ChangesOnly noReg noByte [.IR] s t) ∧
    ∃ t, perform .tick s = .next t ∧ t.ParkedAt p
end

