-- ==== Sys2Proof/Laws/Memory.lean ====
section
/-! SUPPORT. The laws of the RAM: addresses reduced to 12 bits, a read after a write, and the canonical form, which
every operation keeps and which makes equal contents equal lists. -/

namespace Sys2Proof.Machine

/-! ### `addr12` -/

theorem addr12_toNat (a : Word) : (addr12 a).toNat = a.toNat % 4096 := by
  simp only [addr12, BitVec.toNat_and]
  exact Nat.and_two_pow_sub_one_eq_mod a.toNat 12

theorem addr12_lt (a : Word) : (addr12 a).toNat < Config.memSize := by
  rw [addr12_toNat]; exact Nat.mod_lt _ (by decide)

theorem addr12_eq_iff (a b : Word) : addr12 a = addr12 b ↔ a.toNat % 4096 = b.toNat % 4096 := by
  rw [← BitVec.toNat_inj, addr12_toNat, addr12_toNat]

theorem addr12_of_lt {a : Word} (h : a.toNat < Config.memSize) : addr12 a = a := by
  rw [← BitVec.toNat_inj, addr12_toNat]; exact Nat.mod_eq_of_lt h

@[simp] theorem addr12_addr12 (a : Word) : addr12 (addr12 a) = addr12 a := addr12_of_lt (addr12_lt a)

/-! ### Reading a cell, reading after a write -/

namespace Memory

@[simp] theorem read_nil (a : Nat) : Memory.read [] a = initialByte a := rfl

@[simp] theorem read_cons (b : Nat) (v : Byte) (m : Memory) (a : Nat) :
    Memory.read ((b, v) :: m) a = if a = b then v else Memory.read m a := rfl

theorem read_cell_append_ne {a b : Nat} (v : Byte) (m : Memory) (h : b ≠ a) :
    Memory.read (Memory.cell a v ++ m) b = Memory.read m b := by
  unfold Memory.cell; split <;> simp [h]

/-- A write leaves every other byte alone, whatever the list. -/
theorem read_write_ne (m : Memory) {a b : Nat} (v : Byte) (h : b ≠ a) : (m.write a v).read b = m.read b := by
  induction m with
  | nil => simpa [Memory.write] using read_cell_append_ne v [] h
  | cons c m ih =>
    obtain ⟨d, w⟩ := c
    simp only [Memory.write]
    split
    · exact read_cell_append_ne v _ h
    · split
      · next _ e => subst e; rw [read_cell_append_ne v _ h]; simp [h]
      · simp [ih]

/-! ### The canonical form -/

@[simp] theorem wfFrom_nil (lo : Nat) : Memory.wfFrom lo [] = true := rfl

@[simp] theorem wf_nil : Memory.wf [] = true := rfl

theorem wfFrom_cons {lo a : Nat} {v : Byte} {m : Memory} :
    Memory.wfFrom lo ((a, v) :: m) = true ↔
      lo ≤ a ∧ a < Config.memSize ∧ v ≠ initialByte a ∧ Memory.wfFrom (a + 1) m = true := by
  simp [Memory.wfFrom, and_assoc]

theorem wfFrom_mono {lo lo' : Nat} {m : Memory} (h : lo' ≤ lo) (hm : m.wfFrom lo = true) : m.wfFrom lo' = true := by
  cases m with
  | nil => rfl
  | cons c m =>
    obtain ⟨a, v⟩ := c
    rw [wfFrom_cons] at hm ⊢
    exact ⟨h.trans hm.1, hm.2⟩

/-- Below its first address a canonical list reads as the reset contents. -/
theorem read_of_wfFrom {lo a : Nat} {m : Memory} (hm : m.wfFrom lo = true) (h : a < lo) : m.read a = initialByte a := by
  induction m generalizing lo with
  | nil => rfl
  | cons c m ih =>
    obtain ⟨b, v⟩ := c
    rw [wfFrom_cons] at hm
    have hb : a ≠ b := by omega
    rw [read_cons, if_neg hb]
    exact ih hm.2.2.2 (by omega)

theorem read_cell_append_self {a : Nat} (v : Byte) {m : Memory} (hm : m.wfFrom (a + 1) = true) :
    Memory.read (Memory.cell a v ++ m) a = v := by
  unfold Memory.cell
  split
  · next e => simpa [e] using read_of_wfFrom hm (Nat.lt_succ_self a)
  · simp

/-- A read after a write to the same address gives the byte written. -/
theorem read_write_self {m : Memory} (hm : m.wf = true) (a : Nat) (v : Byte) : (m.write a v).read a = v := by
  suffices ∀ lo, Memory.wfFrom lo m = true → (m.write a v).read a = v from this 0 hm
  clear hm
  induction m with
  | nil => intro _ _; simpa [Memory.write] using read_cell_append_self (m := []) v rfl
  | cons c m ih =>
    obtain ⟨b, w⟩ := c
    intro lo hm
    rw [wfFrom_cons] at hm
    simp only [Memory.write]
    split
    · next h => exact read_cell_append_self v (wfFrom_cons.mpr ⟨h, hm.2⟩)
    · split
      · next _ e => subst e; exact read_cell_append_self v hm.2.2.2
      · next _ e => rw [read_cons, if_neg e]; exact ih _ hm.2.2.2

theorem wfFrom_cell_append {lo a : Nat} (v : Byte) {m : Memory} (hl : lo ≤ a) (ha : a < Config.memSize)
    (hm : m.wfFrom (a + 1) = true) : (Memory.cell a v ++ m).wfFrom lo = true := by
  unfold Memory.cell
  split
  · exact wfFrom_mono (by omega) hm
  · next h => exact wfFrom_cons.mpr ⟨hl, ha, h, hm⟩

theorem wfFrom_write {lo a : Nat} (v : Byte) {m : Memory} (hl : lo ≤ a) (ha : a < Config.memSize)
    (hm : m.wfFrom lo = true) : (m.write a v).wfFrom lo = true := by
  induction m generalizing lo with
  | nil => simpa [Memory.write] using wfFrom_cell_append (m := []) v hl ha rfl
  | cons c m ih =>
    obtain ⟨b, w⟩ := c
    have h := wfFrom_cons.mp hm
    simp only [Memory.write]
    split
    · next hb => exact wfFrom_cell_append v hl ha (wfFrom_cons.mpr ⟨hb, h.2⟩)
    · split
      · next _ e => subst e; exact wfFrom_cell_append v hl ha h.2.2.2
      · next hn e => exact wfFrom_cons.mpr ⟨h.1, h.2.1, h.2.2.1, ih (by omega) h.2.2.2⟩

/-- A write inside the RAM keeps the canonical form. -/
theorem wf_write {m : Memory} (hm : m.wf = true) {a : Nat} (ha : a < Config.memSize) (v : Byte) :
    (m.write a v).wf = true := wfFrom_write v (Nat.zero_le a) ha hm

/-- Loading an image that fits keeps the canonical form. -/
theorem wf_load {m : Memory} (hm : m.wf = true) (bs : List Byte) {a : Nat} (h : a + bs.length ≤ Config.memSize) :
    (m.load a bs).wf = true := by
  induction bs generalizing m a with
  | nil => exact hm
  | cons v bs ih =>
    rw [List.length_cons] at h
    exact ih (wf_write hm (by omega) v) (by omega)

/-- Loading an image leaves the bytes outside it alone. -/
theorem read_load_outside (m : Memory) (bs : List Byte) {a b : Nat} (h : b < a ∨ a + bs.length ≤ b) :
    (m.load a bs).read b = m.read b := by
  induction bs generalizing m a with
  | nil => rfl
  | cons v bs ih =>
    rw [List.length_cons] at h
    have hb : b ≠ a := by omega
    rw [Memory.load, ih (m.write a v) (by omega), read_write_ne m v hb]

end Memory

end Sys2Proof.Machine
end

