-- ==== Sys2Proof/Laws/State.lean ====
section
/-! SUPPORT. What each named operation does to each field of the state, one lemma per field, true by unfolding, so that
no proof unfolds a record update. -/

namespace Sys2Proof.Machine

/-! `setReg` -/

@[simp] theorem State.setReg_V (s : State) (x : RegIdx) (v : Byte) : (s.setReg x v).V = s.V.set x.toNat v x.isLt := rfl
@[simp] theorem State.setReg_I (s : State) (x : RegIdx) (v : Byte) : (s.setReg x v).I = s.I := rfl
@[simp] theorem State.setReg_pc (s : State) (x : RegIdx) (v : Byte) : (s.setReg x v).pc = s.pc := rfl
@[simp] theorem State.setReg_stack (s : State) (x : RegIdx) (v : Byte) : (s.setReg x v).stack = s.stack := rfl
@[simp] theorem State.setReg_SP (s : State) (x : RegIdx) (v : Byte) : (s.setReg x v).SP = s.SP := rfl
@[simp] theorem State.setReg_DT (s : State) (x : RegIdx) (v : Byte) : (s.setReg x v).DT = s.DT := rfl
@[simp] theorem State.setReg_ST (s : State) (x : RegIdx) (v : Byte) : (s.setReg x v).ST = s.ST := rfl
@[simp] theorem State.setReg_mem (s : State) (x : RegIdx) (v : Byte) : (s.setReg x v).mem = s.mem := rfl
@[simp] theorem State.setReg_key (s : State) (x : RegIdx) (v : Byte) : (s.setReg x v).key = s.key := rfl
@[simp] theorem State.setReg_pix (s : State) (x : RegIdx) (v : Byte) : (s.setReg x v).pix = s.pix := rfl
@[simp] theorem State.setReg_needsRedraw (s : State) (x : RegIdx) (v : Byte) : (s.setReg x v).needsRedraw = s.needsRedraw := rfl
@[simp] theorem State.setReg_IR (s : State) (x : RegIdx) (v : Byte) : (s.setReg x v).IR = s.IR := rfl
@[simp] theorem State.setReg_runState (s : State) (x : RegIdx) (v : Byte) : (s.setReg x v).runState = s.runState := rfl
@[simp] theorem State.setReg_haltCause (s : State) (x : RegIdx) (v : Byte) : (s.setReg x v).haltCause = s.haltCause := rfl
@[simp] theorem State.setReg_kwPhase (s : State) (x : RegIdx) (v : Byte) : (s.setReg x v).kwPhase = s.kwPhase := rfl
@[simp] theorem State.setReg_kwSnap (s : State) (x : RegIdx) (v : Byte) : (s.setReg x v).kwSnap = s.kwSnap := rfl
@[simp] theorem State.setReg_draws (s : State) (x : RegIdx) (v : Byte) : (s.setReg x v).draws = s.draws := rfl

/-! `setPc` -/

@[simp] theorem State.setPc_V (s : State) (a : Word) : (s.setPc a).V = s.V := rfl
@[simp] theorem State.setPc_I (s : State) (a : Word) : (s.setPc a).I = s.I := rfl
@[simp] theorem State.setPc_pc (s : State) (a : Word) : (s.setPc a).pc = addr12 a := rfl
@[simp] theorem State.setPc_stack (s : State) (a : Word) : (s.setPc a).stack = s.stack := rfl
@[simp] theorem State.setPc_SP (s : State) (a : Word) : (s.setPc a).SP = s.SP := rfl
@[simp] theorem State.setPc_DT (s : State) (a : Word) : (s.setPc a).DT = s.DT := rfl
@[simp] theorem State.setPc_ST (s : State) (a : Word) : (s.setPc a).ST = s.ST := rfl
@[simp] theorem State.setPc_mem (s : State) (a : Word) : (s.setPc a).mem = s.mem := rfl
@[simp] theorem State.setPc_key (s : State) (a : Word) : (s.setPc a).key = s.key := rfl
@[simp] theorem State.setPc_pix (s : State) (a : Word) : (s.setPc a).pix = s.pix := rfl
@[simp] theorem State.setPc_needsRedraw (s : State) (a : Word) : (s.setPc a).needsRedraw = s.needsRedraw := rfl
@[simp] theorem State.setPc_IR (s : State) (a : Word) : (s.setPc a).IR = s.IR := rfl
@[simp] theorem State.setPc_runState (s : State) (a : Word) : (s.setPc a).runState = s.runState := rfl
@[simp] theorem State.setPc_haltCause (s : State) (a : Word) : (s.setPc a).haltCause = s.haltCause := rfl
@[simp] theorem State.setPc_kwPhase (s : State) (a : Word) : (s.setPc a).kwPhase = s.kwPhase := rfl
@[simp] theorem State.setPc_kwSnap (s : State) (a : Word) : (s.setPc a).kwSnap = s.kwSnap := rfl
@[simp] theorem State.setPc_draws (s : State) (a : Word) : (s.setPc a).draws = s.draws := rfl

/-! `setI` -/

@[simp] theorem State.setI_V (s : State) (a : Word) : (s.setI a).V = s.V := rfl
@[simp] theorem State.setI_I (s : State) (a : Word) : (s.setI a).I = addr12 a := rfl
@[simp] theorem State.setI_pc (s : State) (a : Word) : (s.setI a).pc = s.pc := rfl
@[simp] theorem State.setI_stack (s : State) (a : Word) : (s.setI a).stack = s.stack := rfl
@[simp] theorem State.setI_SP (s : State) (a : Word) : (s.setI a).SP = s.SP := rfl
@[simp] theorem State.setI_DT (s : State) (a : Word) : (s.setI a).DT = s.DT := rfl
@[simp] theorem State.setI_ST (s : State) (a : Word) : (s.setI a).ST = s.ST := rfl
@[simp] theorem State.setI_mem (s : State) (a : Word) : (s.setI a).mem = s.mem := rfl
@[simp] theorem State.setI_key (s : State) (a : Word) : (s.setI a).key = s.key := rfl
@[simp] theorem State.setI_pix (s : State) (a : Word) : (s.setI a).pix = s.pix := rfl
@[simp] theorem State.setI_needsRedraw (s : State) (a : Word) : (s.setI a).needsRedraw = s.needsRedraw := rfl
@[simp] theorem State.setI_IR (s : State) (a : Word) : (s.setI a).IR = s.IR := rfl
@[simp] theorem State.setI_runState (s : State) (a : Word) : (s.setI a).runState = s.runState := rfl
@[simp] theorem State.setI_haltCause (s : State) (a : Word) : (s.setI a).haltCause = s.haltCause := rfl
@[simp] theorem State.setI_kwPhase (s : State) (a : Word) : (s.setI a).kwPhase = s.kwPhase := rfl
@[simp] theorem State.setI_kwSnap (s : State) (a : Word) : (s.setI a).kwSnap = s.kwSnap := rfl
@[simp] theorem State.setI_draws (s : State) (a : Word) : (s.setI a).draws = s.draws := rfl

/-! `memWrite` -/

@[simp] theorem State.memWrite_V (s : State) (a : Word) (v : Byte) : (s.memWrite a v).V = s.V := rfl
@[simp] theorem State.memWrite_I (s : State) (a : Word) (v : Byte) : (s.memWrite a v).I = s.I := rfl
@[simp] theorem State.memWrite_pc (s : State) (a : Word) (v : Byte) : (s.memWrite a v).pc = s.pc := rfl
@[simp] theorem State.memWrite_stack (s : State) (a : Word) (v : Byte) : (s.memWrite a v).stack = s.stack := rfl
@[simp] theorem State.memWrite_SP (s : State) (a : Word) (v : Byte) : (s.memWrite a v).SP = s.SP := rfl
@[simp] theorem State.memWrite_DT (s : State) (a : Word) (v : Byte) : (s.memWrite a v).DT = s.DT := rfl
@[simp] theorem State.memWrite_ST (s : State) (a : Word) (v : Byte) : (s.memWrite a v).ST = s.ST := rfl
@[simp] theorem State.memWrite_mem (s : State) (a : Word) (v : Byte) : (s.memWrite a v).mem = s.mem.write (addr12 a).toNat v := rfl
@[simp] theorem State.memWrite_key (s : State) (a : Word) (v : Byte) : (s.memWrite a v).key = s.key := rfl
@[simp] theorem State.memWrite_pix (s : State) (a : Word) (v : Byte) : (s.memWrite a v).pix = s.pix := rfl
@[simp] theorem State.memWrite_needsRedraw (s : State) (a : Word) (v : Byte) : (s.memWrite a v).needsRedraw = s.needsRedraw := rfl
@[simp] theorem State.memWrite_IR (s : State) (a : Word) (v : Byte) : (s.memWrite a v).IR = s.IR := rfl
@[simp] theorem State.memWrite_runState (s : State) (a : Word) (v : Byte) : (s.memWrite a v).runState = s.runState := rfl
@[simp] theorem State.memWrite_haltCause (s : State) (a : Word) (v : Byte) : (s.memWrite a v).haltCause = s.haltCause := rfl
@[simp] theorem State.memWrite_kwPhase (s : State) (a : Word) (v : Byte) : (s.memWrite a v).kwPhase = s.kwPhase := rfl
@[simp] theorem State.memWrite_kwSnap (s : State) (a : Word) (v : Byte) : (s.memWrite a v).kwSnap = s.kwSnap := rfl
@[simp] theorem State.memWrite_draws (s : State) (a : Word) (v : Byte) : (s.memWrite a v).draws = s.draws := rfl

/-! `skip` -/

@[simp] theorem State.skip_V (s : State) : (s.skip).V = s.V := rfl
@[simp] theorem State.skip_I (s : State) : (s.skip).I = s.I := rfl
@[simp] theorem State.skip_pc (s : State) : (s.skip).pc = addr12 (s.pc + 2#16) := rfl
@[simp] theorem State.skip_stack (s : State) : (s.skip).stack = s.stack := rfl
@[simp] theorem State.skip_SP (s : State) : (s.skip).SP = s.SP := rfl
@[simp] theorem State.skip_DT (s : State) : (s.skip).DT = s.DT := rfl
@[simp] theorem State.skip_ST (s : State) : (s.skip).ST = s.ST := rfl
@[simp] theorem State.skip_mem (s : State) : (s.skip).mem = s.mem := rfl
@[simp] theorem State.skip_key (s : State) : (s.skip).key = s.key := rfl
@[simp] theorem State.skip_pix (s : State) : (s.skip).pix = s.pix := rfl
@[simp] theorem State.skip_needsRedraw (s : State) : (s.skip).needsRedraw = s.needsRedraw := rfl
@[simp] theorem State.skip_IR (s : State) : (s.skip).IR = s.IR := rfl
@[simp] theorem State.skip_runState (s : State) : (s.skip).runState = s.runState := rfl
@[simp] theorem State.skip_haltCause (s : State) : (s.skip).haltCause = s.haltCause := rfl
@[simp] theorem State.skip_kwPhase (s : State) : (s.skip).kwPhase = s.kwPhase := rfl
@[simp] theorem State.skip_kwSnap (s : State) : (s.skip).kwSnap = s.kwSnap := rfl
@[simp] theorem State.skip_draws (s : State) : (s.skip).draws = s.draws := rfl

/-! `rewind` -/

@[simp] theorem State.rewind_V (s : State) : (s.rewind).V = s.V := rfl
@[simp] theorem State.rewind_I (s : State) : (s.rewind).I = s.I := rfl
@[simp] theorem State.rewind_pc (s : State) : (s.rewind).pc = addr12 (s.pc - 2#16) := rfl
@[simp] theorem State.rewind_stack (s : State) : (s.rewind).stack = s.stack := rfl
@[simp] theorem State.rewind_SP (s : State) : (s.rewind).SP = s.SP := rfl
@[simp] theorem State.rewind_DT (s : State) : (s.rewind).DT = s.DT := rfl
@[simp] theorem State.rewind_ST (s : State) : (s.rewind).ST = s.ST := rfl
@[simp] theorem State.rewind_mem (s : State) : (s.rewind).mem = s.mem := rfl
@[simp] theorem State.rewind_key (s : State) : (s.rewind).key = s.key := rfl
@[simp] theorem State.rewind_pix (s : State) : (s.rewind).pix = s.pix := rfl
@[simp] theorem State.rewind_needsRedraw (s : State) : (s.rewind).needsRedraw = s.needsRedraw := rfl
@[simp] theorem State.rewind_IR (s : State) : (s.rewind).IR = s.IR := rfl
@[simp] theorem State.rewind_runState (s : State) : (s.rewind).runState = s.runState := rfl
@[simp] theorem State.rewind_haltCause (s : State) : (s.rewind).haltCause = s.haltCause := rfl
@[simp] theorem State.rewind_kwPhase (s : State) : (s.rewind).kwPhase = s.kwPhase := rfl
@[simp] theorem State.rewind_kwSnap (s : State) : (s.rewind).kwSnap = s.kwSnap := rfl
@[simp] theorem State.rewind_draws (s : State) : (s.rewind).draws = s.draws := rfl

/-! `raiseFatal` -/

@[simp] theorem State.raiseFatal_V (s : State) (c : HaltCause) : (s.raiseFatal c).V = s.V := rfl
@[simp] theorem State.raiseFatal_I (s : State) (c : HaltCause) : (s.raiseFatal c).I = s.I := rfl
@[simp] theorem State.raiseFatal_pc (s : State) (c : HaltCause) : (s.raiseFatal c).pc = s.pc := rfl
@[simp] theorem State.raiseFatal_stack (s : State) (c : HaltCause) : (s.raiseFatal c).stack = s.stack := rfl
@[simp] theorem State.raiseFatal_SP (s : State) (c : HaltCause) : (s.raiseFatal c).SP = s.SP := rfl
@[simp] theorem State.raiseFatal_DT (s : State) (c : HaltCause) : (s.raiseFatal c).DT = s.DT := rfl
@[simp] theorem State.raiseFatal_ST (s : State) (c : HaltCause) : (s.raiseFatal c).ST = s.ST := rfl
@[simp] theorem State.raiseFatal_mem (s : State) (c : HaltCause) : (s.raiseFatal c).mem = s.mem := rfl
@[simp] theorem State.raiseFatal_key (s : State) (c : HaltCause) : (s.raiseFatal c).key = s.key := rfl
@[simp] theorem State.raiseFatal_pix (s : State) (c : HaltCause) : (s.raiseFatal c).pix = s.pix := rfl
@[simp] theorem State.raiseFatal_needsRedraw (s : State) (c : HaltCause) : (s.raiseFatal c).needsRedraw = s.needsRedraw := rfl
@[simp] theorem State.raiseFatal_IR (s : State) (c : HaltCause) : (s.raiseFatal c).IR = s.IR := rfl
@[simp] theorem State.raiseFatal_runState (s : State) (c : HaltCause) : (s.raiseFatal c).runState = .halted := rfl
@[simp] theorem State.raiseFatal_haltCause (s : State) (c : HaltCause) : (s.raiseFatal c).haltCause = c := rfl
@[simp] theorem State.raiseFatal_kwPhase (s : State) (c : HaltCause) : (s.raiseFatal c).kwPhase = s.kwPhase := rfl
@[simp] theorem State.raiseFatal_kwSnap (s : State) (c : HaltCause) : (s.raiseFatal c).kwSnap = s.kwSnap := rfl
@[simp] theorem State.raiseFatal_draws (s : State) (c : HaltCause) : (s.raiseFatal c).draws = s.draws := rfl

/-! `pushPc` -/

@[simp] theorem State.pushPc_V (s : State) (h : s.SP.toNat < Config.stackDepth) : (s.pushPc h).V = s.V := rfl
@[simp] theorem State.pushPc_I (s : State) (h : s.SP.toNat < Config.stackDepth) : (s.pushPc h).I = s.I := rfl
@[simp] theorem State.pushPc_pc (s : State) (h : s.SP.toNat < Config.stackDepth) : (s.pushPc h).pc = s.pc := rfl
@[simp] theorem State.pushPc_stack (s : State) (h : s.SP.toNat < Config.stackDepth) : (s.pushPc h).stack = s.stack.set s.SP.toNat s.pc h := rfl
@[simp] theorem State.pushPc_SP (s : State) (h : s.SP.toNat < Config.stackDepth) : (s.pushPc h).SP = s.SP + 1#8 := rfl
@[simp] theorem State.pushPc_DT (s : State) (h : s.SP.toNat < Config.stackDepth) : (s.pushPc h).DT = s.DT := rfl
@[simp] theorem State.pushPc_ST (s : State) (h : s.SP.toNat < Config.stackDepth) : (s.pushPc h).ST = s.ST := rfl
@[simp] theorem State.pushPc_mem (s : State) (h : s.SP.toNat < Config.stackDepth) : (s.pushPc h).mem = s.mem := rfl
@[simp] theorem State.pushPc_key (s : State) (h : s.SP.toNat < Config.stackDepth) : (s.pushPc h).key = s.key := rfl
@[simp] theorem State.pushPc_pix (s : State) (h : s.SP.toNat < Config.stackDepth) : (s.pushPc h).pix = s.pix := rfl
@[simp] theorem State.pushPc_needsRedraw (s : State) (h : s.SP.toNat < Config.stackDepth) : (s.pushPc h).needsRedraw = s.needsRedraw := rfl
@[simp] theorem State.pushPc_IR (s : State) (h : s.SP.toNat < Config.stackDepth) : (s.pushPc h).IR = s.IR := rfl
@[simp] theorem State.pushPc_runState (s : State) (h : s.SP.toNat < Config.stackDepth) : (s.pushPc h).runState = s.runState := rfl
@[simp] theorem State.pushPc_haltCause (s : State) (h : s.SP.toNat < Config.stackDepth) : (s.pushPc h).haltCause = s.haltCause := rfl
@[simp] theorem State.pushPc_kwPhase (s : State) (h : s.SP.toNat < Config.stackDepth) : (s.pushPc h).kwPhase = s.kwPhase := rfl
@[simp] theorem State.pushPc_kwSnap (s : State) (h : s.SP.toNat < Config.stackDepth) : (s.pushPc h).kwSnap = s.kwSnap := rfl
@[simp] theorem State.pushPc_draws (s : State) (h : s.SP.toNat < Config.stackDepth) : (s.pushPc h).draws = s.draws := rfl

/-! `popPc` -/

@[simp] theorem State.popPc_V (s : State) (h : s.SP.toNat - 1 < Config.stackDepth) : (s.popPc h).V = s.V := rfl
@[simp] theorem State.popPc_I (s : State) (h : s.SP.toNat - 1 < Config.stackDepth) : (s.popPc h).I = s.I := rfl
@[simp] theorem State.popPc_pc (s : State) (h : s.SP.toNat - 1 < Config.stackDepth) : (s.popPc h).pc = addr12 (s.stack[s.SP.toNat - 1]'h) := rfl
@[simp] theorem State.popPc_stack (s : State) (h : s.SP.toNat - 1 < Config.stackDepth) : (s.popPc h).stack = s.stack := rfl
@[simp] theorem State.popPc_SP (s : State) (h : s.SP.toNat - 1 < Config.stackDepth) : (s.popPc h).SP = s.SP - 1#8 := rfl
@[simp] theorem State.popPc_DT (s : State) (h : s.SP.toNat - 1 < Config.stackDepth) : (s.popPc h).DT = s.DT := rfl
@[simp] theorem State.popPc_ST (s : State) (h : s.SP.toNat - 1 < Config.stackDepth) : (s.popPc h).ST = s.ST := rfl
@[simp] theorem State.popPc_mem (s : State) (h : s.SP.toNat - 1 < Config.stackDepth) : (s.popPc h).mem = s.mem := rfl
@[simp] theorem State.popPc_key (s : State) (h : s.SP.toNat - 1 < Config.stackDepth) : (s.popPc h).key = s.key := rfl
@[simp] theorem State.popPc_pix (s : State) (h : s.SP.toNat - 1 < Config.stackDepth) : (s.popPc h).pix = s.pix := rfl
@[simp] theorem State.popPc_needsRedraw (s : State) (h : s.SP.toNat - 1 < Config.stackDepth) : (s.popPc h).needsRedraw = s.needsRedraw := rfl
@[simp] theorem State.popPc_IR (s : State) (h : s.SP.toNat - 1 < Config.stackDepth) : (s.popPc h).IR = s.IR := rfl
@[simp] theorem State.popPc_runState (s : State) (h : s.SP.toNat - 1 < Config.stackDepth) : (s.popPc h).runState = s.runState := rfl
@[simp] theorem State.popPc_haltCause (s : State) (h : s.SP.toNat - 1 < Config.stackDepth) : (s.popPc h).haltCause = s.haltCause := rfl
@[simp] theorem State.popPc_kwPhase (s : State) (h : s.SP.toNat - 1 < Config.stackDepth) : (s.popPc h).kwPhase = s.kwPhase := rfl
@[simp] theorem State.popPc_kwSnap (s : State) (h : s.SP.toNat - 1 < Config.stackDepth) : (s.popPc h).kwSnap = s.kwSnap := rfl
@[simp] theorem State.popPc_draws (s : State) (h : s.SP.toNat - 1 < Config.stackDepth) : (s.popPc h).draws = s.draws := rfl

/-! `fetch` -/

@[simp] theorem State.fetch_V (s : State) : (s.fetch).V = s.V := rfl
@[simp] theorem State.fetch_I (s : State) : (s.fetch).I = s.I := rfl
@[simp] theorem State.fetch_pc (s : State) : (s.fetch).pc = addr12 (s.pc + 2#16) := rfl
@[simp] theorem State.fetch_stack (s : State) : (s.fetch).stack = s.stack := rfl
@[simp] theorem State.fetch_SP (s : State) : (s.fetch).SP = s.SP := rfl
@[simp] theorem State.fetch_DT (s : State) : (s.fetch).DT = s.DT := rfl
@[simp] theorem State.fetch_ST (s : State) : (s.fetch).ST = s.ST := rfl
@[simp] theorem State.fetch_mem (s : State) : (s.fetch).mem = s.mem := rfl
@[simp] theorem State.fetch_key (s : State) : (s.fetch).key = s.key := rfl
@[simp] theorem State.fetch_pix (s : State) : (s.fetch).pix = s.pix := rfl
@[simp] theorem State.fetch_needsRedraw (s : State) : (s.fetch).needsRedraw = s.needsRedraw := rfl
@[simp] theorem State.fetch_IR (s : State) : (s.fetch).IR = s.fetchWord := rfl
@[simp] theorem State.fetch_runState (s : State) : (s.fetch).runState = s.runState := rfl
@[simp] theorem State.fetch_haltCause (s : State) : (s.fetch).haltCause = s.haltCause := rfl
@[simp] theorem State.fetch_kwPhase (s : State) : (s.fetch).kwPhase = s.kwPhase := rfl
@[simp] theorem State.fetch_kwSnap (s : State) : (s.fetch).kwSnap = s.kwSnap := rfl
@[simp] theorem State.fetch_draws (s : State) : (s.fetch).draws = s.draws := rfl

/-! `sampleAndRewind` -/

@[simp] theorem State.sampleAndRewind_V (s : State) : (s.sampleAndRewind).V = s.V := rfl
@[simp] theorem State.sampleAndRewind_I (s : State) : (s.sampleAndRewind).I = s.I := rfl
@[simp] theorem State.sampleAndRewind_pc (s : State) : (s.sampleAndRewind).pc = addr12 (s.pc - 2#16) := rfl
@[simp] theorem State.sampleAndRewind_stack (s : State) : (s.sampleAndRewind).stack = s.stack := rfl
@[simp] theorem State.sampleAndRewind_SP (s : State) : (s.sampleAndRewind).SP = s.SP := rfl
@[simp] theorem State.sampleAndRewind_DT (s : State) : (s.sampleAndRewind).DT = s.DT := rfl
@[simp] theorem State.sampleAndRewind_ST (s : State) : (s.sampleAndRewind).ST = s.ST := rfl
@[simp] theorem State.sampleAndRewind_mem (s : State) : (s.sampleAndRewind).mem = s.mem := rfl
@[simp] theorem State.sampleAndRewind_key (s : State) : (s.sampleAndRewind).key = s.key := rfl
@[simp] theorem State.sampleAndRewind_pix (s : State) : (s.sampleAndRewind).pix = s.pix := rfl
@[simp] theorem State.sampleAndRewind_needsRedraw (s : State) : (s.sampleAndRewind).needsRedraw = s.needsRedraw := rfl
@[simp] theorem State.sampleAndRewind_IR (s : State) : (s.sampleAndRewind).IR = s.IR := rfl
@[simp] theorem State.sampleAndRewind_runState (s : State) : (s.sampleAndRewind).runState = s.runState := rfl
@[simp] theorem State.sampleAndRewind_haltCause (s : State) : (s.sampleAndRewind).haltCause = s.haltCause := rfl
@[simp] theorem State.sampleAndRewind_kwPhase (s : State) : (s.sampleAndRewind).kwPhase = .waiting := rfl
@[simp] theorem State.sampleAndRewind_kwSnap (s : State) : (s.sampleAndRewind).kwSnap = s.key := rfl
@[simp] theorem State.sampleAndRewind_draws (s : State) : (s.sampleAndRewind).draws = s.draws := rfl

/-! `setFlagThenReg` -/

@[simp] theorem State.setFlagThenReg_V (s : State) (x : RegIdx) (f r : Byte) :
    (s.setFlagThenReg x f r).V = (s.V.set (0xF#4).toNat f (0xF#4).isLt).set x.toNat r x.isLt := rfl
@[simp] theorem State.setFlagThenReg_I (s : State) (x : RegIdx) (f r : Byte) : (s.setFlagThenReg x f r).I = s.I := rfl
@[simp] theorem State.setFlagThenReg_pc (s : State) (x : RegIdx) (f r : Byte) : (s.setFlagThenReg x f r).pc = s.pc := rfl
@[simp] theorem State.setFlagThenReg_stack (s : State) (x : RegIdx) (f r : Byte) : (s.setFlagThenReg x f r).stack = s.stack := rfl
@[simp] theorem State.setFlagThenReg_SP (s : State) (x : RegIdx) (f r : Byte) : (s.setFlagThenReg x f r).SP = s.SP := rfl
@[simp] theorem State.setFlagThenReg_DT (s : State) (x : RegIdx) (f r : Byte) : (s.setFlagThenReg x f r).DT = s.DT := rfl
@[simp] theorem State.setFlagThenReg_ST (s : State) (x : RegIdx) (f r : Byte) : (s.setFlagThenReg x f r).ST = s.ST := rfl
@[simp] theorem State.setFlagThenReg_mem (s : State) (x : RegIdx) (f r : Byte) : (s.setFlagThenReg x f r).mem = s.mem := rfl
@[simp] theorem State.setFlagThenReg_key (s : State) (x : RegIdx) (f r : Byte) : (s.setFlagThenReg x f r).key = s.key := rfl
@[simp] theorem State.setFlagThenReg_pix (s : State) (x : RegIdx) (f r : Byte) : (s.setFlagThenReg x f r).pix = s.pix := rfl
@[simp] theorem State.setFlagThenReg_needsRedraw (s : State) (x : RegIdx) (f r : Byte) : (s.setFlagThenReg x f r).needsRedraw = s.needsRedraw := rfl
@[simp] theorem State.setFlagThenReg_IR (s : State) (x : RegIdx) (f r : Byte) : (s.setFlagThenReg x f r).IR = s.IR := rfl
@[simp] theorem State.setFlagThenReg_runState (s : State) (x : RegIdx) (f r : Byte) : (s.setFlagThenReg x f r).runState = s.runState := rfl
@[simp] theorem State.setFlagThenReg_haltCause (s : State) (x : RegIdx) (f r : Byte) : (s.setFlagThenReg x f r).haltCause = s.haltCause := rfl
@[simp] theorem State.setFlagThenReg_kwPhase (s : State) (x : RegIdx) (f r : Byte) : (s.setFlagThenReg x f r).kwPhase = s.kwPhase := rfl
@[simp] theorem State.setFlagThenReg_kwSnap (s : State) (x : RegIdx) (f r : Byte) : (s.setFlagThenReg x f r).kwSnap = s.kwSnap := rfl
@[simp] theorem State.setFlagThenReg_draws (s : State) (x : RegIdx) (f r : Byte) : (s.setFlagThenReg x f r).draws = s.draws := rfl

/-! `drawRandom` -/

@[simp] theorem State.drawRandom_fst (s : State) : s.drawRandom.1 = Config.rand8 s.draws := rfl
@[simp] theorem State.drawRandom_V (s : State) : s.drawRandom.2.V = s.V := rfl
@[simp] theorem State.drawRandom_I (s : State) : s.drawRandom.2.I = s.I := rfl
@[simp] theorem State.drawRandom_pc (s : State) : s.drawRandom.2.pc = s.pc := rfl
@[simp] theorem State.drawRandom_stack (s : State) : s.drawRandom.2.stack = s.stack := rfl
@[simp] theorem State.drawRandom_SP (s : State) : s.drawRandom.2.SP = s.SP := rfl
@[simp] theorem State.drawRandom_DT (s : State) : s.drawRandom.2.DT = s.DT := rfl
@[simp] theorem State.drawRandom_ST (s : State) : s.drawRandom.2.ST = s.ST := rfl
@[simp] theorem State.drawRandom_mem (s : State) : s.drawRandom.2.mem = s.mem := rfl
@[simp] theorem State.drawRandom_key (s : State) : s.drawRandom.2.key = s.key := rfl
@[simp] theorem State.drawRandom_pix (s : State) : s.drawRandom.2.pix = s.pix := rfl
@[simp] theorem State.drawRandom_needsRedraw (s : State) : s.drawRandom.2.needsRedraw = s.needsRedraw := rfl
@[simp] theorem State.drawRandom_IR (s : State) : s.drawRandom.2.IR = s.IR := rfl
@[simp] theorem State.drawRandom_runState (s : State) : s.drawRandom.2.runState = s.runState := rfl
@[simp] theorem State.drawRandom_haltCause (s : State) : s.drawRandom.2.haltCause = s.haltCause := rfl
@[simp] theorem State.drawRandom_kwPhase (s : State) : s.drawRandom.2.kwPhase = s.kwPhase := rfl
@[simp] theorem State.drawRandom_kwSnap (s : State) : s.drawRandom.2.kwSnap = s.kwSnap := rfl
@[simp] theorem State.drawRandom_draws (s : State) : s.drawRandom.2.draws = s.draws + 1 := rfl

/-! `skipIf` -/

/-- A skip changes `pc` and nothing else. -/
theorem State.skipIf_eq (s : State) (c : Bool) :
    s.skipIf c = { s with pc := if c then addr12 (s.pc + 2#16) else s.pc } := by cases c <;> rfl

@[simp] theorem State.skipIf_V (s : State) (c : Bool) : (s.skipIf c).V = s.V := by cases c <;> rfl
@[simp] theorem State.skipIf_I (s : State) (c : Bool) : (s.skipIf c).I = s.I := by cases c <;> rfl
theorem State.skipIf_pc (s : State) (c : Bool) : (s.skipIf c).pc = if c then addr12 (s.pc + 2#16) else s.pc := by
  cases c <;> rfl
@[simp] theorem State.skipIf_stack (s : State) (c : Bool) : (s.skipIf c).stack = s.stack := by cases c <;> rfl
@[simp] theorem State.skipIf_SP (s : State) (c : Bool) : (s.skipIf c).SP = s.SP := by cases c <;> rfl
@[simp] theorem State.skipIf_DT (s : State) (c : Bool) : (s.skipIf c).DT = s.DT := by cases c <;> rfl
@[simp] theorem State.skipIf_ST (s : State) (c : Bool) : (s.skipIf c).ST = s.ST := by cases c <;> rfl
@[simp] theorem State.skipIf_mem (s : State) (c : Bool) : (s.skipIf c).mem = s.mem := by cases c <;> rfl
@[simp] theorem State.skipIf_key (s : State) (c : Bool) : (s.skipIf c).key = s.key := by cases c <;> rfl
@[simp] theorem State.skipIf_pix (s : State) (c : Bool) : (s.skipIf c).pix = s.pix := by cases c <;> rfl
@[simp] theorem State.skipIf_needsRedraw (s : State) (c : Bool) : (s.skipIf c).needsRedraw = s.needsRedraw := by cases c <;> rfl
@[simp] theorem State.skipIf_IR (s : State) (c : Bool) : (s.skipIf c).IR = s.IR := by cases c <;> rfl
@[simp] theorem State.skipIf_runState (s : State) (c : Bool) : (s.skipIf c).runState = s.runState := by cases c <;> rfl
@[simp] theorem State.skipIf_haltCause (s : State) (c : Bool) : (s.skipIf c).haltCause = s.haltCause := by cases c <;> rfl
@[simp] theorem State.skipIf_kwPhase (s : State) (c : Bool) : (s.skipIf c).kwPhase = s.kwPhase := by cases c <;> rfl
@[simp] theorem State.skipIf_kwSnap (s : State) (c : Bool) : (s.skipIf c).kwSnap = s.kwSnap := by cases c <;> rfl
@[simp] theorem State.skipIf_draws (s : State) (c : Bool) : (s.skipIf c).draws = s.draws := by cases c <;> rfl

/-! Host operations -/

@[simp] theorem State.redrawAck_needsRedraw (s : State) : s.redrawAck.needsRedraw = false := rfl
@[simp] theorem State.keyIn_key (s : State) (k : Keys) : (s.keyIn k).key = k := rfl

@[simp] theorem State.redrawAck_V (s : State) : (s.redrawAck).V = s.V := rfl
@[simp] theorem State.redrawAck_I (s : State) : (s.redrawAck).I = s.I := rfl
@[simp] theorem State.redrawAck_pc (s : State) : (s.redrawAck).pc = s.pc := rfl
@[simp] theorem State.redrawAck_stack (s : State) : (s.redrawAck).stack = s.stack := rfl
@[simp] theorem State.redrawAck_SP (s : State) : (s.redrawAck).SP = s.SP := rfl
@[simp] theorem State.redrawAck_DT (s : State) : (s.redrawAck).DT = s.DT := rfl
@[simp] theorem State.redrawAck_ST (s : State) : (s.redrawAck).ST = s.ST := rfl
@[simp] theorem State.redrawAck_mem (s : State) : (s.redrawAck).mem = s.mem := rfl
@[simp] theorem State.redrawAck_key (s : State) : (s.redrawAck).key = s.key := rfl
@[simp] theorem State.redrawAck_pix (s : State) : (s.redrawAck).pix = s.pix := rfl
@[simp] theorem State.redrawAck_IR (s : State) : (s.redrawAck).IR = s.IR := rfl
@[simp] theorem State.redrawAck_runState (s : State) : (s.redrawAck).runState = s.runState := rfl
@[simp] theorem State.redrawAck_haltCause (s : State) : (s.redrawAck).haltCause = s.haltCause := rfl
@[simp] theorem State.redrawAck_kwPhase (s : State) : (s.redrawAck).kwPhase = s.kwPhase := rfl
@[simp] theorem State.redrawAck_kwSnap (s : State) : (s.redrawAck).kwSnap = s.kwSnap := rfl
@[simp] theorem State.redrawAck_draws (s : State) : (s.redrawAck).draws = s.draws := rfl
@[simp] theorem State.keyIn_V (s : State) (k : Keys) : (s.keyIn k).V = s.V := rfl
@[simp] theorem State.keyIn_I (s : State) (k : Keys) : (s.keyIn k).I = s.I := rfl
@[simp] theorem State.keyIn_pc (s : State) (k : Keys) : (s.keyIn k).pc = s.pc := rfl
@[simp] theorem State.keyIn_stack (s : State) (k : Keys) : (s.keyIn k).stack = s.stack := rfl
@[simp] theorem State.keyIn_SP (s : State) (k : Keys) : (s.keyIn k).SP = s.SP := rfl
@[simp] theorem State.keyIn_DT (s : State) (k : Keys) : (s.keyIn k).DT = s.DT := rfl
@[simp] theorem State.keyIn_ST (s : State) (k : Keys) : (s.keyIn k).ST = s.ST := rfl
@[simp] theorem State.keyIn_mem (s : State) (k : Keys) : (s.keyIn k).mem = s.mem := rfl
@[simp] theorem State.keyIn_pix (s : State) (k : Keys) : (s.keyIn k).pix = s.pix := rfl
@[simp] theorem State.keyIn_needsRedraw (s : State) (k : Keys) : (s.keyIn k).needsRedraw = s.needsRedraw := rfl
@[simp] theorem State.keyIn_IR (s : State) (k : Keys) : (s.keyIn k).IR = s.IR := rfl
@[simp] theorem State.keyIn_runState (s : State) (k : Keys) : (s.keyIn k).runState = s.runState := rfl
@[simp] theorem State.keyIn_haltCause (s : State) (k : Keys) : (s.keyIn k).haltCause = s.haltCause := rfl
@[simp] theorem State.keyIn_kwPhase (s : State) (k : Keys) : (s.keyIn k).kwPhase = s.kwPhase := rfl
@[simp] theorem State.keyIn_kwSnap (s : State) (k : Keys) : (s.keyIn k).kwSnap = s.kwSnap := rfl
@[simp] theorem State.keyIn_draws (s : State) (k : Keys) : (s.keyIn k).draws = s.draws := rfl
@[simp] theorem State.tick_V (s : State) : s.tick.V = s.V := by
  unfold State.tick; split <;> rfl
@[simp] theorem State.tick_I (s : State) : s.tick.I = s.I := by
  unfold State.tick; split <;> rfl
@[simp] theorem State.tick_pc (s : State) : s.tick.pc = s.pc := by
  unfold State.tick; split <;> rfl
@[simp] theorem State.tick_stack (s : State) : s.tick.stack = s.stack := by
  unfold State.tick; split <;> rfl
@[simp] theorem State.tick_SP (s : State) : s.tick.SP = s.SP := by
  unfold State.tick; split <;> rfl
@[simp] theorem State.tick_mem (s : State) : s.tick.mem = s.mem := by
  unfold State.tick; split <;> rfl
@[simp] theorem State.tick_key (s : State) : s.tick.key = s.key := by
  unfold State.tick; split <;> rfl
@[simp] theorem State.tick_pix (s : State) : s.tick.pix = s.pix := by
  unfold State.tick; split <;> rfl
@[simp] theorem State.tick_needsRedraw (s : State) : s.tick.needsRedraw = s.needsRedraw := by
  unfold State.tick; split <;> rfl
@[simp] theorem State.tick_IR (s : State) : s.tick.IR = s.IR := by
  unfold State.tick; split <;> rfl
@[simp] theorem State.tick_runState (s : State) : s.tick.runState = s.runState := by
  unfold State.tick; split <;> rfl
@[simp] theorem State.tick_haltCause (s : State) : s.tick.haltCause = s.haltCause := by
  unfold State.tick; split <;> rfl
@[simp] theorem State.tick_kwPhase (s : State) : s.tick.kwPhase = s.kwPhase := by
  unfold State.tick; split <;> rfl
@[simp] theorem State.tick_kwSnap (s : State) : s.tick.kwSnap = s.kwSnap := by
  unfold State.tick; split <;> rfl
@[simp] theorem State.tick_draws (s : State) : s.tick.draws = s.draws := by
  unfold State.tick; split <;> rfl
@[simp] theorem State.pauseToggle_V (s : State) : s.pauseToggle.V = s.V := by
  unfold State.pauseToggle; split <;> rfl
@[simp] theorem State.pauseToggle_I (s : State) : s.pauseToggle.I = s.I := by
  unfold State.pauseToggle; split <;> rfl
@[simp] theorem State.pauseToggle_pc (s : State) : s.pauseToggle.pc = s.pc := by
  unfold State.pauseToggle; split <;> rfl
@[simp] theorem State.pauseToggle_stack (s : State) : s.pauseToggle.stack = s.stack := by
  unfold State.pauseToggle; split <;> rfl
@[simp] theorem State.pauseToggle_SP (s : State) : s.pauseToggle.SP = s.SP := by
  unfold State.pauseToggle; split <;> rfl
@[simp] theorem State.pauseToggle_DT (s : State) : s.pauseToggle.DT = s.DT := by
  unfold State.pauseToggle; split <;> rfl
@[simp] theorem State.pauseToggle_ST (s : State) : s.pauseToggle.ST = s.ST := by
  unfold State.pauseToggle; split <;> rfl
@[simp] theorem State.pauseToggle_mem (s : State) : s.pauseToggle.mem = s.mem := by
  unfold State.pauseToggle; split <;> rfl
@[simp] theorem State.pauseToggle_key (s : State) : s.pauseToggle.key = s.key := by
  unfold State.pauseToggle; split <;> rfl
@[simp] theorem State.pauseToggle_pix (s : State) : s.pauseToggle.pix = s.pix := by
  unfold State.pauseToggle; split <;> rfl
@[simp] theorem State.pauseToggle_needsRedraw (s : State) : s.pauseToggle.needsRedraw = s.needsRedraw := by
  unfold State.pauseToggle; split <;> rfl
@[simp] theorem State.pauseToggle_IR (s : State) : s.pauseToggle.IR = s.IR := by
  unfold State.pauseToggle; split <;> rfl
@[simp] theorem State.pauseToggle_haltCause (s : State) : s.pauseToggle.haltCause = s.haltCause := by
  unfold State.pauseToggle; split <;> rfl
@[simp] theorem State.pauseToggle_kwPhase (s : State) : s.pauseToggle.kwPhase = s.kwPhase := by
  unfold State.pauseToggle; split <;> rfl
@[simp] theorem State.pauseToggle_kwSnap (s : State) : s.pauseToggle.kwSnap = s.kwSnap := by
  unfold State.pauseToggle; split <;> rfl
@[simp] theorem State.pauseToggle_draws (s : State) : s.pauseToggle.draws = s.draws := by
  unfold State.pauseToggle; split <;> rfl
@[simp] theorem State.quit_V (s : State) : s.quit.V = s.V := by
  unfold State.quit; split <;> rfl
@[simp] theorem State.quit_I (s : State) : s.quit.I = s.I := by
  unfold State.quit; split <;> rfl
@[simp] theorem State.quit_pc (s : State) : s.quit.pc = s.pc := by
  unfold State.quit; split <;> rfl
@[simp] theorem State.quit_stack (s : State) : s.quit.stack = s.stack := by
  unfold State.quit; split <;> rfl
@[simp] theorem State.quit_SP (s : State) : s.quit.SP = s.SP := by
  unfold State.quit; split <;> rfl
@[simp] theorem State.quit_DT (s : State) : s.quit.DT = s.DT := by
  unfold State.quit; split <;> rfl
@[simp] theorem State.quit_ST (s : State) : s.quit.ST = s.ST := by
  unfold State.quit; split <;> rfl
@[simp] theorem State.quit_mem (s : State) : s.quit.mem = s.mem := by
  unfold State.quit; split <;> rfl
@[simp] theorem State.quit_key (s : State) : s.quit.key = s.key := by
  unfold State.quit; split <;> rfl
@[simp] theorem State.quit_pix (s : State) : s.quit.pix = s.pix := by
  unfold State.quit; split <;> rfl
@[simp] theorem State.quit_needsRedraw (s : State) : s.quit.needsRedraw = s.needsRedraw := by
  unfold State.quit; split <;> rfl
@[simp] theorem State.quit_IR (s : State) : s.quit.IR = s.IR := by
  unfold State.quit; split <;> rfl
@[simp] theorem State.quit_kwPhase (s : State) : s.quit.kwPhase = s.kwPhase := by
  unfold State.quit; split <;> rfl
@[simp] theorem State.quit_kwSnap (s : State) : s.quit.kwSnap = s.kwSnap := by
  unfold State.quit; split <;> rfl
@[simp] theorem State.quit_draws (s : State) : s.quit.draws = s.draws := by
  unfold State.quit; split <;> rfl

end Sys2Proof.Machine
end

