-- ==== Sys2Proof/Laws/Ops.lean ====
section
/-! SUPPORT. What each shared operation can do, said once: registers, memory bytes, the loops of the block transfers,
and one pixel of the buffer. -/

namespace Sys2Proof.Machine

/-! ### Registers -/

@[simp] theorem State.reg_setReg_self (s : State) (x : RegIdx) (v : Byte) : (s.setReg x v).reg x = v := by
  simp [State.reg]

theorem State.reg_setReg_ne (s : State) {x r : RegIdx} (v : Byte) (h : r ≠ x) : (s.setReg x v).reg r = s.reg r := by
  have hn : ¬ x.toNat = r.toNat := fun e => h (BitVec.eq_of_toNat_eq e.symm)
  simp only [State.reg, State.setReg_V]
  exact Vector.getElem_set_ne _ _ hn

theorem State.reg_setReg (s : State) (x r : RegIdx) (v : Byte) :
    (s.setReg x v).reg r = if r = x then v else s.reg r := by
  split
  · next h => subst h; exact State.reg_setReg_self s r v
  · next h => exact State.reg_setReg_ne s v h

/-- Two states with the same registers read alike. -/
theorem State.reg_congr {s t : State} (h : t.V = s.V) (r : RegIdx) : t.reg r = s.reg r := by
  simp only [State.reg, h]

theorem State.reg_setFlagThenReg (s : State) (x r : RegIdx) (f v : Byte) :
    (s.setFlagThenReg x f v).reg r = if r = x then v else if r = 0xF#4 then f else s.reg r := by
  rw [State.setFlagThenReg, State.reg_setReg, State.reg_setReg]

/-! ### Memory bytes -/

theorem State.memRead_congr {s t : State} (h : t.mem = s.mem) (a : Word) : t.memRead a = s.memRead a := by
  simp only [State.memRead, h]

/-- Addresses that `addr12` takes to one address name one byte. -/
theorem State.memRead_addr12 (s : State) (a : Word) : s.memRead (addr12 a) = s.memRead a := by
  simp only [State.memRead, addr12_addr12]

theorem State.memRead_memWrite_ne (s : State) {a b : Word} (v : Byte) (h : addr12 b ≠ addr12 a) :
    (s.memWrite a v).memRead b = s.memRead b :=
  Memory.read_write_ne s.mem v fun e => h (BitVec.eq_of_toNat_eq e)

theorem State.memRead_memWrite_self (s : State) (hm : s.mem.wf = true) {a b : Word} (v : Byte)
    (h : addr12 b = addr12 a) : (s.memWrite a v).memRead b = v := by
  simp only [State.memRead, State.memWrite_mem, h]
  exact Memory.read_write_self hm _ v

theorem State.memWrite_wf {s : State} (hm : s.mem.wf = true) (a : Word) (v : Byte) : (s.memWrite a v).mem.wf = true :=
  Memory.wf_write hm (addr12_lt a) v

/-! ### Addresses through `I` -/

theorem indexAddr_toNat (i : Word) (k : Nat) : (indexAddr i k).toNat = (i.toNat + k) % 4096 := by
  rw [indexAddr, addr12_toNat, BitVec.toNat_add, BitVec.toNat_ofNat]
  omega

@[simp] theorem addr12_indexAddr (i : Word) (k : Nat) : addr12 (indexAddr i k) = indexAddr i k := addr12_addr12 _

/-- Offsets less than a RAM size apart give different addresses. -/
theorem indexAddr_inj (i : Word) {j k : Nat} (hj : j < 4096) (hk : k < 4096) : indexAddr i j = indexAddr i k ↔ j = k := by
  rw [← BitVec.toNat_inj, indexAddr_toNat, indexAddr_toNat]
  omega

/-! ### The block transfers -/

/-- `storeRegs` writes memory and nothing else. -/
theorem storeRegs_eq (rs : List Nat) (s : State) : storeRegs rs s = { s with mem := (storeRegs rs s).mem } := by
  induction rs generalizing s with
  | nil => rfl
  | cons r rs ih => rw [storeRegs, ih]; rfl

/-- `loadRegs` writes registers and nothing else. -/
theorem loadRegs_eq (rs : List Nat) (s : State) : loadRegs rs s = { s with V := (loadRegs rs s).V } := by
  induction rs generalizing s with
  | nil => rfl
  | cons r rs ih => rw [loadRegs, ih]; rfl

theorem storeRegs_wf (rs : List Nat) {s : State} (hm : s.mem.wf = true) : (storeRegs rs s).mem.wf = true := by
  induction rs generalizing s with
  | nil => exact hm
  | cons r rs ih => exact ih (State.memWrite_wf hm _ _)

/-- A byte that is none of the stored ones keeps its value. -/
theorem storeRegs_memRead_ne (rs : List Nat) (s : State) {a : Word} (h : ∀ r ∈ rs, addr12 a ≠ indexAddr s.I r) :
    (storeRegs rs s).memRead a = s.memRead a := by
  induction rs generalizing s with
  | nil => rfl
  | cons r rs ih =>
    rw [storeRegs, ih (s.memWrite _ _) fun q hq => h q (List.mem_cons_of_mem _ hq)]
    refine State.memRead_memWrite_ne s _ ?_
    rw [addr12_indexAddr]
    exact h r List.mem_cons_self

/-- A stored byte holds its register, if the register numbers are distinct and small. -/
theorem storeRegs_memRead_mem (rs : List Nat) {s : State} (hm : s.mem.wf = true) (hd : rs.Nodup)
    (hs : ∀ r ∈ rs, r < 4096) {r : Nat} (hr : r ∈ rs) :
    (storeRegs rs s).memRead (indexAddr s.I r) = s.reg (BitVec.ofNat 4 r) := by
  induction rs generalizing s with
  | nil => cases hr
  | cons q rs ih =>
    have hd' := List.nodup_cons.mp hd
    rw [storeRegs]
    rcases List.mem_cons.mp hr with rfl | hr'
    · rw [storeRegs_memRead_ne]
      · exact State.memRead_memWrite_self s hm _ rfl
      · intro p hp e
        rw [addr12_indexAddr] at e
        have := (indexAddr_inj s.I (hs r List.mem_cons_self) (hs p (List.mem_cons_of_mem _ hp))).mp e
        exact hd'.1 (this ▸ hp)
    · exact ih (State.memWrite_wf hm _ _) hd'.2 (fun p hp => hs p (List.mem_cons_of_mem _ hp)) hr'

/-- A register that is none of the loaded ones keeps its value. -/
theorem loadRegs_reg_ne (rs : List Nat) (s : State) {x : RegIdx} (h : ∀ r ∈ rs, x ≠ BitVec.ofNat 4 r) :
    (loadRegs rs s).reg x = s.reg x := by
  induction rs generalizing s with
  | nil => rfl
  | cons r rs ih =>
    rw [loadRegs, ih _ fun q hq => h q (List.mem_cons_of_mem _ hq)]
    exact State.reg_setReg_ne s _ (h r List.mem_cons_self)

/-- A loaded register holds its byte, if the register numbers are distinct and name registers. -/
theorem loadRegs_reg_mem (rs : List Nat) (s : State) (hd : rs.Nodup) (hs : ∀ r ∈ rs, r < 16) {r : Nat} (hr : r ∈ rs) :
    (loadRegs rs s).reg (BitVec.ofNat 4 r) = s.memRead (indexAddr s.I r) := by
  induction rs generalizing s with
  | nil => cases hr
  | cons q rs ih =>
    have hd' := List.nodup_cons.mp hd
    rw [loadRegs]
    rcases List.mem_cons.mp hr with rfl | hr'
    · rw [loadRegs_reg_ne]
      · exact State.reg_setReg_self s _ _
      · intro p hp e
        have e' := congrArg BitVec.toNat e
        have h1 := hs r List.mem_cons_self
        have h2 := hs p (List.mem_cons_of_mem _ hp)
        simp only [BitVec.toNat_ofNat] at e'
        have : r = p := by omega
        exact hd'.1 (this ▸ hp)
    · exact ih _ hd'.2 (fun p hp => hs p (List.mem_cons_of_mem _ hp)) hr'

/-! ### Pixels -/

theorem pixelAt_togglePixel (p : PixelBuffer) {x y : Nat} (px py : Nat) (hx : x < 64) (hy : y < 32) :
    pixelAt (togglePixel p x y) px py = if px = x ∧ py = y then !pixelAt p px py else pixelAt p px py := by
  unfold pixelAt togglePixel
  rw [dif_pos hy]
  by_cases h : py < 32
  · simp only [dif_pos h, Vector.getElem_set]
    by_cases e : y = py
    · subst e
      simp only [if_true, and_true, BitVec.getLsbD_xor, BitVec.getLsbD_shiftLeft, BitVec.getLsbD_one]
      by_cases ex : px = x
      · subst ex; simp [hx]
      · have : ¬ (px < 64 ∧ ¬ px < x ∧ px - x = 0) := by omega
        simp only [ex, if_false]
        by_cases h1 : px < 64 <;> by_cases h2 : px < x <;> by_cases h3 : px - x = 0 <;> simp_all
    · have : ¬ (px = x ∧ py = y) := fun h => e h.2.symm
      simp [e, this]
  · have : ¬ (px = x ∧ py = y) := by omega
    simp [h, this]

@[simp] theorem pixelAt_clearPixels (px py : Nat) : pixelAt clearPixels px py = false := by
  unfold pixelAt clearPixels; split <;> simp

end Sys2Proof.Machine
end

