-- ==== Sys2Proof/Laws/Display.lean ====
section
/-! SUPPORT. What the sprite engine does, pixel by pixel: each of its loops toggles a set of pixels and collides iff one
of them was on. -/

namespace Sys2Proof.Machine

/-- `f` toggles exactly the pixels in `C`, and reports a collision iff one was reported before or a pixel of `C` was
on. -/
structure Draws (f : Canvas → Canvas) (C : Nat → Nat → Prop) : Prop where
  toggled : ∀ cv px py, C px py → pixelAt (f cv).pix px py = !pixelAt cv.pix px py
  kept : ∀ cv px py, ¬ C px py → pixelAt (f cv).pix px py = pixelAt cv.pix px py
  hit_iff : ∀ cv, (f cv).hit = true ↔ cv.hit = true ∨ ∃ px py, C px py ∧ pixelAt cv.pix px py = true

theorem Draws.nothing : Draws (fun cv => cv) (fun _ _ => False) where
  toggled _ _ _ h := h.elim
  kept _ _ _ _ := rfl
  hit_iff _ := by simp

/-- Drawing on two disjoint sets of pixels, one after the other, draws on both. -/
theorem Draws.andThen {f g : Canvas → Canvas} {C D : Nat → Nat → Prop} (hf : Draws f C) (hg : Draws g D)
    (disj : ∀ px py, C px py → ¬ D px py) : Draws (fun cv => g (f cv)) (fun px py => C px py ∨ D px py) where
  toggled cv px py h := by
    rcases h with h | h
    · rw [hg.kept _ _ _ (disj _ _ h), hf.toggled _ _ _ h]
    · rw [hg.toggled _ _ _ h, hf.kept _ _ _ fun hc => disj _ _ hc h]
  kept cv px py h := by
    rw [hg.kept _ _ _ fun hd => h (.inr hd), hf.kept _ _ _ fun hc => h (.inl hc)]
  hit_iff cv := by
    rw [hg.hit_iff, hf.hit_iff]
    constructor
    · rintro ((h | ⟨px, py, hc, hp⟩) | ⟨px, py, hd, hp⟩)
      · exact .inl h
      · exact .inr ⟨px, py, .inl hc, hp⟩
      · rw [hf.kept _ _ _ fun hc => disj _ _ hc hd] at hp
        exact .inr ⟨px, py, .inr hd, hp⟩
    · rintro (h | ⟨px, py, hc | hd, hp⟩)
      · exact .inl (.inl h)
      · exact .inl (.inr ⟨px, py, hc, hp⟩)
      · refine .inr ⟨px, py, hd, ?_⟩
        rw [hf.kept _ _ _ fun hc => disj _ _ hc hd]
        exact hp

theorem Draws.of_iff {f : Canvas → Canvas} {C D : Nat → Nat → Prop} (hf : Draws f C) (h : ∀ px py, C px py ↔ D px py) :
    Draws f D := by
  have : C = D := by funext px py; exact propext (h px py)
  rwa [← this]

/-- One sprite bit inside the buffer draws its pixel if it is set. -/
theorem plot_draws {x y : Nat} (bit : Bool) (hx : x < 64) (hy : y < 32) :
    Draws (plot x y bit) (fun px py => bit = true ∧ px = x ∧ py = y) where
  toggled cv px py h := by
    obtain ⟨rfl, rfl, rfl⟩ := h
    simp [plot, pixelAt_togglePixel _ _ _ hx hy]
  kept cv px py h := by
    unfold plot
    split
    · next hb => rw [pixelAt_togglePixel _ _ _ hx hy, if_neg fun e => h ⟨hb, e⟩]
    · rfl
  hit_iff cv := by cases bit <;> simp [plot]

/-- The pixels of one sprite row, at the listed column offsets. -/
def rowPixels (x0 y : Nat) (b : Byte) (cs : List Nat) (px py : Nat) : Prop :=
  py = y ∧ px < 64 ∧ ∃ c ∈ cs, px = x0 + c ∧ spriteBit b c = true

/-- A sprite row on a row of the buffer draws its set bits left of column 64. -/
theorem drawCols_draws {x0 y : Nat} (b : Byte) (hy : y < 32) (cs : List Nat) (hs : cs.Pairwise (· < ·)) :
    Draws (drawCols x0 y b cs) (rowPixels x0 y b cs) := by
  induction cs with
  | nil => exact Draws.nothing.of_iff fun px py => by simp [rowPixels]
  | cons c cs ih =>
    have hp := List.pairwise_cons.mp hs
    by_cases hc : x0 + c ≥ 64
    · have hf : drawCols x0 y b (c :: cs) = fun cv => cv := by funext cv; simp [drawCols, hc]
      rw [hf]
      refine Draws.nothing.of_iff fun px py => iff_of_false id ?_
      rintro ⟨-, hpx, d, hd, rfl, -⟩
      rcases List.mem_cons.mp hd with rfl | hd
      · omega
      · have := hp.1 d hd; omega
    · have hf : drawCols x0 y b (c :: cs) = fun cv => drawCols x0 y b cs (plot (x0 + c) y (spriteBit b c) cv) := by
        funext cv; simp [drawCols, hc]
      rw [hf]
      refine ((plot_draws (spriteBit b c) (by omega) hy).andThen (ih hp.2) ?_).of_iff fun px py => ?_
      · rintro px py ⟨-, rfl, -⟩ ⟨-, -, d, hd, e, -⟩
        have := hp.1 d hd
        omega
      · constructor
        · rintro (⟨hb, rfl, rfl⟩ | ⟨h1, h2, d, hd, h3, h4⟩)
          · exact ⟨rfl, by omega, c, List.mem_cons_self, rfl, hb⟩
          · exact ⟨h1, h2, d, List.mem_cons_of_mem _ hd, h3, h4⟩
        · rintro ⟨h1, h2, d, hd, h3, h4⟩
          rcases List.mem_cons.mp hd with rfl | hd
          · exact .inl ⟨h4, h3, h1⟩
          · exact .inr ⟨h1, h2, d, hd, h3, h4⟩

/-- The pixels of a sprite at the listed row offsets: row `r` is the byte at `I + r`. -/
def spritePixels (s : State) (x0 y0 : Nat) (rs : List Nat) (px py : Nat) : Prop :=
  py < 32 ∧ ∃ r ∈ rs, rowPixels x0 (y0 + r) (s.memRead (indexAddr s.I r)) (List.range 8) px py

/-- The sprite draws its set bits inside the buffer. -/
theorem drawRows_draws (s : State) (x0 y0 : Nat) (rs : List Nat) (hs : rs.Pairwise (· < ·)) :
    Draws (drawRows s x0 y0 rs) (spritePixels s x0 y0 rs) := by
  induction rs with
  | nil => exact Draws.nothing.of_iff fun px py => by simp [spritePixels]
  | cons r rs ih =>
    have hp := List.pairwise_cons.mp hs
    by_cases hr : y0 + r ≥ 32
    · have hf : drawRows s x0 y0 (r :: rs) = fun cv => cv := by funext cv; simp [drawRows, hr]
      rw [hf]
      refine Draws.nothing.of_iff fun px py => iff_of_false id ?_
      rintro ⟨hpy, q, hq, rfl, -⟩
      rcases List.mem_cons.mp hq with rfl | hq
      · omega
      · have := hp.1 q hq; omega
    · have hf : drawRows s x0 y0 (r :: rs) = fun cv => drawRows s x0 y0 rs
          (drawCols x0 (y0 + r) (s.memRead (indexAddr s.I r)) (List.range 8) cv) := by
        funext cv; simp [drawRows, hr]
      rw [hf]
      refine ((drawCols_draws _ (by omega) _ List.pairwise_lt_range).andThen (ih hp.2) ?_).of_iff fun px py => ?_
      · rintro px py ⟨rfl, -⟩ ⟨-, q, hq, e, -⟩
        have := hp.1 q hq
        omega
      · constructor
        · rintro (h | ⟨h1, q, hq, h2⟩)
          · exact ⟨by have := h.1; omega, r, List.mem_cons_self, h⟩
          · exact ⟨h1, q, List.mem_cons_of_mem _ hq, h2⟩
        · rintro ⟨h1, q, hq, h2⟩
          rcases List.mem_cons.mp hq with rfl | hq
          · exact .inl h2
          · exact .inr ⟨h1, q, hq, h2⟩

end Sys2Proof.Machine
end

