-- ==== Sys2Proof/Laws/PerInstr.lean ====
section
/-! SUPPORT. The opcode table of 30_encoding.md R75 as data, and for each instruction the lemma that the encoder's word
matches its row: `w & mask = match`. -/

namespace Sys2Proof.Laws

/-- The mask of an instruction's row (R75). -/
def tableMask : Instr → Word
  | .sys _ => 0xF000
  | .cls => 0xFFFF
  | .ret => 0xFFFF
  | .jp _ => 0xF000
  | .call _ => 0xF000
  | .seByte _ _ => 0xF000
  | .sneByte _ _ => 0xF000
  | .seReg _ _ => 0xF00F
  | .ldByte _ _ => 0xF000
  | .addByte _ _ => 0xF000
  | .ldReg _ _ => 0xF00F
  | .orReg _ _ => 0xF00F
  | .andReg _ _ => 0xF00F
  | .xorReg _ _ => 0xF00F
  | .addReg _ _ => 0xF00F
  | .subReg _ _ => 0xF00F
  | .shr _ _ => 0xF00F
  | .subn _ _ => 0xF00F
  | .shl _ _ => 0xF00F
  | .sneReg _ _ => 0xF00F
  | .ldI _ => 0xF000
  | .jpV0 _ => 0xF000
  | .rnd _ _ => 0xF000
  | .drw _ _ _ => 0xF000
  | .skp _ => 0xF0FF
  | .sknp _ => 0xF0FF
  | .ldVxDT _ => 0xF0FF
  | .ldVxK _ => 0xF0FF
  | .ldDTVx _ => 0xF0FF
  | .ldSTVx _ => 0xF0FF
  | .addIVx _ => 0xF0FF
  | .ldFVx _ => 0xF0FF
  | .ldBVx _ => 0xF0FF
  | .ldMemVx _ => 0xF0FF
  | .ldVxMem _ => 0xF0FF

/-- The match of an instruction's row (R75). -/
def tableMatch : Instr → Word
  | .sys _ => 0x0000
  | .cls => 0x00E0
  | .ret => 0x00EE
  | .jp _ => 0x1000
  | .call _ => 0x2000
  | .seByte _ _ => 0x3000
  | .sneByte _ _ => 0x4000
  | .seReg _ _ => 0x5000
  | .ldByte _ _ => 0x6000
  | .addByte _ _ => 0x7000
  | .ldReg _ _ => 0x8000
  | .orReg _ _ => 0x8001
  | .andReg _ _ => 0x8002
  | .xorReg _ _ => 0x8003
  | .addReg _ _ => 0x8004
  | .subReg _ _ => 0x8005
  | .shr _ _ => 0x8006
  | .subn _ _ => 0x8007
  | .shl _ _ => 0x800E
  | .sneReg _ _ => 0x9000
  | .ldI _ => 0xA000
  | .jpV0 _ => 0xB000
  | .rnd _ _ => 0xC000
  | .drw _ _ _ => 0xD000
  | .skp _ => 0xE09E
  | .sknp _ => 0xE0A1
  | .ldVxDT _ => 0xF007
  | .ldVxK _ => 0xF00A
  | .ldDTVx _ => 0xF015
  | .ldSTVx _ => 0xF018
  | .addIVx _ => 0xF01E
  | .ldFVx _ => 0xF029
  | .ldBVx _ => 0xF033
  | .ldMemVx _ => 0xF055
  | .ldVxMem _ => 0xF065

/-- The instruction's word matches its row of the opcode table. -/
def TableRow.Statement (i : Instr) : Prop := encode i &&& tableMask i = tableMatch i

theorem TableRow.sys (nnn : Addr) : TableRow.Statement (.sys nnn) := by
  show (0x0#4 ++ nnn : Word) &&& (0xF#4 ++ 0#12) = 0x0#4 ++ 0#12
  simp only [BitVec.and_append, BitVec.and_zero]; rfl

theorem TableRow.cls : TableRow.Statement .cls := by
  show (0x00E0 : Word) &&& 0xFFFF = 0x00E0
  decide

theorem TableRow.ret : TableRow.Statement .ret := by
  show (0x00EE : Word) &&& 0xFFFF = 0x00EE
  decide

theorem TableRow.jp (nnn : Addr) : TableRow.Statement (.jp nnn) := by
  show (0x1#4 ++ nnn : Word) &&& (0xF#4 ++ 0#12) = 0x1#4 ++ 0#12
  simp only [BitVec.and_append, BitVec.and_zero]; rfl

theorem TableRow.call (nnn : Addr) : TableRow.Statement (.call nnn) := by
  show (0x2#4 ++ nnn : Word) &&& (0xF#4 ++ 0#12) = 0x2#4 ++ 0#12
  simp only [BitVec.and_append, BitVec.and_zero]; rfl

theorem TableRow.seByte (x : RegIdx) (kk : Byte) : TableRow.Statement (.seByte x kk) := by
  show (0x3#4 ++ x ++ kk : Word) &&& (0xF#4 ++ 0#4 ++ 0#8) = 0x3#4 ++ 0#4 ++ 0#8
  simp only [BitVec.and_append, BitVec.and_zero]; rfl

theorem TableRow.sneByte (x : RegIdx) (kk : Byte) : TableRow.Statement (.sneByte x kk) := by
  show (0x4#4 ++ x ++ kk : Word) &&& (0xF#4 ++ 0#4 ++ 0#8) = 0x4#4 ++ 0#4 ++ 0#8
  simp only [BitVec.and_append, BitVec.and_zero]; rfl

theorem TableRow.seReg (x : RegIdx) (y : RegIdx) : TableRow.Statement (.seReg x y) := by
  show (0x5#4 ++ x ++ y ++ 0x0#4 : Word) &&& (0xF#4 ++ 0#4 ++ 0#4 ++ 0xF#4) = 0x5#4 ++ 0#4 ++ 0#4 ++ 0x0#4
  simp only [BitVec.and_append, BitVec.and_zero]; rfl

theorem TableRow.ldByte (x : RegIdx) (kk : Byte) : TableRow.Statement (.ldByte x kk) := by
  show (0x6#4 ++ x ++ kk : Word) &&& (0xF#4 ++ 0#4 ++ 0#8) = 0x6#4 ++ 0#4 ++ 0#8
  simp only [BitVec.and_append, BitVec.and_zero]; rfl

theorem TableRow.addByte (x : RegIdx) (kk : Byte) : TableRow.Statement (.addByte x kk) := by
  show (0x7#4 ++ x ++ kk : Word) &&& (0xF#4 ++ 0#4 ++ 0#8) = 0x7#4 ++ 0#4 ++ 0#8
  simp only [BitVec.and_append, BitVec.and_zero]; rfl

theorem TableRow.ldReg (x : RegIdx) (y : RegIdx) : TableRow.Statement (.ldReg x y) := by
  show (0x8#4 ++ x ++ y ++ 0x0#4 : Word) &&& (0xF#4 ++ 0#4 ++ 0#4 ++ 0xF#4) = 0x8#4 ++ 0#4 ++ 0#4 ++ 0x0#4
  simp only [BitVec.and_append, BitVec.and_zero]; rfl

theorem TableRow.orReg (x : RegIdx) (y : RegIdx) : TableRow.Statement (.orReg x y) := by
  show (0x8#4 ++ x ++ y ++ 0x1#4 : Word) &&& (0xF#4 ++ 0#4 ++ 0#4 ++ 0xF#4) = 0x8#4 ++ 0#4 ++ 0#4 ++ 0x1#4
  simp only [BitVec.and_append, BitVec.and_zero]; rfl

theorem TableRow.andReg (x : RegIdx) (y : RegIdx) : TableRow.Statement (.andReg x y) := by
  show (0x8#4 ++ x ++ y ++ 0x2#4 : Word) &&& (0xF#4 ++ 0#4 ++ 0#4 ++ 0xF#4) = 0x8#4 ++ 0#4 ++ 0#4 ++ 0x2#4
  simp only [BitVec.and_append, BitVec.and_zero]; rfl

theorem TableRow.xorReg (x : RegIdx) (y : RegIdx) : TableRow.Statement (.xorReg x y) := by
  show (0x8#4 ++ x ++ y ++ 0x3#4 : Word) &&& (0xF#4 ++ 0#4 ++ 0#4 ++ 0xF#4) = 0x8#4 ++ 0#4 ++ 0#4 ++ 0x3#4
  simp only [BitVec.and_append, BitVec.and_zero]; rfl

theorem TableRow.addReg (x : RegIdx) (y : RegIdx) : TableRow.Statement (.addReg x y) := by
  show (0x8#4 ++ x ++ y ++ 0x4#4 : Word) &&& (0xF#4 ++ 0#4 ++ 0#4 ++ 0xF#4) = 0x8#4 ++ 0#4 ++ 0#4 ++ 0x4#4
  simp only [BitVec.and_append, BitVec.and_zero]; rfl

theorem TableRow.subReg (x : RegIdx) (y : RegIdx) : TableRow.Statement (.subReg x y) := by
  show (0x8#4 ++ x ++ y ++ 0x5#4 : Word) &&& (0xF#4 ++ 0#4 ++ 0#4 ++ 0xF#4) = 0x8#4 ++ 0#4 ++ 0#4 ++ 0x5#4
  simp only [BitVec.and_append, BitVec.and_zero]; rfl

theorem TableRow.shr (x : RegIdx) (y : RegIdx) : TableRow.Statement (.shr x y) := by
  show (0x8#4 ++ x ++ y ++ 0x6#4 : Word) &&& (0xF#4 ++ 0#4 ++ 0#4 ++ 0xF#4) = 0x8#4 ++ 0#4 ++ 0#4 ++ 0x6#4
  simp only [BitVec.and_append, BitVec.and_zero]; rfl

theorem TableRow.subn (x : RegIdx) (y : RegIdx) : TableRow.Statement (.subn x y) := by
  show (0x8#4 ++ x ++ y ++ 0x7#4 : Word) &&& (0xF#4 ++ 0#4 ++ 0#4 ++ 0xF#4) = 0x8#4 ++ 0#4 ++ 0#4 ++ 0x7#4
  simp only [BitVec.and_append, BitVec.and_zero]; rfl

theorem TableRow.shl (x : RegIdx) (y : RegIdx) : TableRow.Statement (.shl x y) := by
  show (0x8#4 ++ x ++ y ++ 0xE#4 : Word) &&& (0xF#4 ++ 0#4 ++ 0#4 ++ 0xF#4) = 0x8#4 ++ 0#4 ++ 0#4 ++ 0xE#4
  simp only [BitVec.and_append, BitVec.and_zero]; rfl

theorem TableRow.sneReg (x : RegIdx) (y : RegIdx) : TableRow.Statement (.sneReg x y) := by
  show (0x9#4 ++ x ++ y ++ 0x0#4 : Word) &&& (0xF#4 ++ 0#4 ++ 0#4 ++ 0xF#4) = 0x9#4 ++ 0#4 ++ 0#4 ++ 0x0#4
  simp only [BitVec.and_append, BitVec.and_zero]; rfl

theorem TableRow.ldI (nnn : Addr) : TableRow.Statement (.ldI nnn) := by
  show (0xA#4 ++ nnn : Word) &&& (0xF#4 ++ 0#12) = 0xA#4 ++ 0#12
  simp only [BitVec.and_append, BitVec.and_zero]; rfl

theorem TableRow.jpV0 (nnn : Addr) : TableRow.Statement (.jpV0 nnn) := by
  show (0xB#4 ++ nnn : Word) &&& (0xF#4 ++ 0#12) = 0xB#4 ++ 0#12
  simp only [BitVec.and_append, BitVec.and_zero]; rfl

theorem TableRow.rnd (x : RegIdx) (kk : Byte) : TableRow.Statement (.rnd x kk) := by
  show (0xC#4 ++ x ++ kk : Word) &&& (0xF#4 ++ 0#4 ++ 0#8) = 0xC#4 ++ 0#4 ++ 0#8
  simp only [BitVec.and_append, BitVec.and_zero]; rfl

theorem TableRow.drw (x : RegIdx) (y : RegIdx) (n : Nibble) : TableRow.Statement (.drw x y n) := by
  show (0xD#4 ++ x ++ y ++ n : Word) &&& (0xF#4 ++ 0#4 ++ 0#4 ++ 0#4) = 0xD#4 ++ 0#4 ++ 0#4 ++ 0#4
  simp only [BitVec.and_append, BitVec.and_zero]; rfl

theorem TableRow.skp (x : RegIdx) : TableRow.Statement (.skp x) := by
  show (0xE#4 ++ x ++ 0x9E#8 : Word) &&& (0xF#4 ++ 0#4 ++ 0xFF#8) = 0xE#4 ++ 0#4 ++ 0x9E#8
  simp only [BitVec.and_append, BitVec.and_zero]; rfl

theorem TableRow.sknp (x : RegIdx) : TableRow.Statement (.sknp x) := by
  show (0xE#4 ++ x ++ 0xA1#8 : Word) &&& (0xF#4 ++ 0#4 ++ 0xFF#8) = 0xE#4 ++ 0#4 ++ 0xA1#8
  simp only [BitVec.and_append, BitVec.and_zero]; rfl

theorem TableRow.ldVxDT (x : RegIdx) : TableRow.Statement (.ldVxDT x) := by
  show (0xF#4 ++ x ++ 0x07#8 : Word) &&& (0xF#4 ++ 0#4 ++ 0xFF#8) = 0xF#4 ++ 0#4 ++ 0x07#8
  simp only [BitVec.and_append, BitVec.and_zero]; rfl

theorem TableRow.ldVxK (x : RegIdx) : TableRow.Statement (.ldVxK x) := by
  show (0xF#4 ++ x ++ 0x0A#8 : Word) &&& (0xF#4 ++ 0#4 ++ 0xFF#8) = 0xF#4 ++ 0#4 ++ 0x0A#8
  simp only [BitVec.and_append, BitVec.and_zero]; rfl

theorem TableRow.ldDTVx (x : RegIdx) : TableRow.Statement (.ldDTVx x) := by
  show (0xF#4 ++ x ++ 0x15#8 : Word) &&& (0xF#4 ++ 0#4 ++ 0xFF#8) = 0xF#4 ++ 0#4 ++ 0x15#8
  simp only [BitVec.and_append, BitVec.and_zero]; rfl

theorem TableRow.ldSTVx (x : RegIdx) : TableRow.Statement (.ldSTVx x) := by
  show (0xF#4 ++ x ++ 0x18#8 : Word) &&& (0xF#4 ++ 0#4 ++ 0xFF#8) = 0xF#4 ++ 0#4 ++ 0x18#8
  simp only [BitVec.and_append, BitVec.and_zero]; rfl

theorem TableRow.addIVx (x : RegIdx) : TableRow.Statement (.addIVx x) := by
  show (0xF#4 ++ x ++ 0x1E#8 : Word) &&& (0xF#4 ++ 0#4 ++ 0xFF#8) = 0xF#4 ++ 0#4 ++ 0x1E#8
  simp only [BitVec.and_append, BitVec.and_zero]; rfl

theorem TableRow.ldFVx (x : RegIdx) : TableRow.Statement (.ldFVx x) := by
  show (0xF#4 ++ x ++ 0x29#8 : Word) &&& (0xF#4 ++ 0#4 ++ 0xFF#8) = 0xF#4 ++ 0#4 ++ 0x29#8
  simp only [BitVec.and_append, BitVec.and_zero]; rfl

theorem TableRow.ldBVx (x : RegIdx) : TableRow.Statement (.ldBVx x) := by
  show (0xF#4 ++ x ++ 0x33#8 : Word) &&& (0xF#4 ++ 0#4 ++ 0xFF#8) = 0xF#4 ++ 0#4 ++ 0x33#8
  simp only [BitVec.and_append, BitVec.and_zero]; rfl

theorem TableRow.ldMemVx (x : RegIdx) : TableRow.Statement (.ldMemVx x) := by
  show (0xF#4 ++ x ++ 0x55#8 : Word) &&& (0xF#4 ++ 0#4 ++ 0xFF#8) = 0xF#4 ++ 0#4 ++ 0x55#8
  simp only [BitVec.and_append, BitVec.and_zero]; rfl

theorem TableRow.ldVxMem (x : RegIdx) : TableRow.Statement (.ldVxMem x) := by
  show (0xF#4 ++ x ++ 0x65#8 : Word) &&& (0xF#4 ++ 0#4 ++ 0xFF#8) = 0xF#4 ++ 0#4 ++ 0x65#8
  simp only [BitVec.and_append, BitVec.and_zero]; rfl

end Sys2Proof.Laws
end

