-- ==== Sys2Proof/Laws/Step.lean ====
section
/-! SUPPORT. What a step can do, said once; and the few instructions whose meaning has more than one case. -/

namespace Sys2Proof.Machine

/-- A step that answers a next state ran an instruction, passed over an unknown word, or did nothing because the block
is not Running. -/
theorem step_cases {s t : State} (h : step s = .next t) :
    (s.runState = .running ∧ ∃ i, decodeWord s.fetchWord = .ok i ∧ exec i s.fetch = .next t) ∨
    (s.runState = .running ∧ (∃ r, decodeWord s.fetchWord = .error r) ∧ t = s.fetch) ∨
    (s.runState ≠ .running ∧ t = s) := by
  unfold step at h
  split at h
  · next hr =>
    split at h
    · next i hi => exact .inl ⟨hr, i, hi, h⟩
    · next r hi => exact .inr (.inl ⟨hr, ⟨r, hi⟩, (Host.Outcome.next.inj h).symm⟩)
  · next hr => exact .inr (.inr ⟨by rw [hr]; decide, (Host.Outcome.next.inj h).symm⟩)
  · next hr => exact .inr (.inr ⟨by rw [hr]; decide, (Host.Outcome.next.inj h).symm⟩)

theorem step_of_ok {s : State} {i : Instr} (hr : s.runState = .running) (hi : decodeWord s.fetchWord = .ok i) :
    step s = exec i s.fetch := by
  unfold step; rw [hr]; simp [hi]

theorem step_of_unknown {s : State} {r : Reject} (hr : s.runState = .running)
    (hi : decodeWord s.fetchWord = .error r) : step s = .next s.fetch := by
  unfold step; rw [hr]; simp [hi, execUnknown]

theorem step_of_not_running {s : State} (hr : s.runState ≠ .running) : step s = .next s := by
  unfold step
  split
  · next h => exact absurd h hr
  · rfl
  · rfl

/-- CALL's three cases. -/
theorem execCall_cases (nnn : Addr) (s : State) :
    (s.SP = 16#8 ∧ execCall nnn s = .next (s.raiseFatal .stackOverflow)) ∨
    (∃ h : s.SP.toNat < Config.stackDepth, execCall nnn s = .next ((s.pushPc h).setPc (addrOf nnn))) ∨
    (Config.stackDepth < s.SP.toNat ∧ execCall nnn s = .fault .illegalStackPointer) := by
  unfold execCall
  by_cases h16 : s.SP = 16#8
  · exact .inl ⟨h16, if_pos h16⟩
  · rw [if_neg h16]
    by_cases h : s.SP.toNat < Config.stackDepth
    · exact .inr (.inl ⟨h, dif_pos h⟩)
    · refine .inr (.inr ⟨?_, dif_neg h⟩)
      have : s.SP.toNat ≠ 16 := fun e => h16 (BitVec.eq_of_toNat_eq e)
      show 16 < s.SP.toNat
      simp only [Config.stackDepth] at h
      omega

/-- RET's three cases. -/
theorem execRet_cases (s : State) :
    (s.SP = 0#8 ∧ execRet s = .next (s.raiseFatal .stackUnderflow)) ∨
    (∃ h : s.SP.toNat - 1 < Config.stackDepth, s.SP ≠ 0#8 ∧ execRet s = .next (s.popPc h)) ∨
    (Config.stackDepth < s.SP.toNat ∧ execRet s = .fault .illegalStackPointer) := by
  unfold execRet
  by_cases h0 : s.SP = 0#8
  · exact .inl ⟨h0, if_pos h0⟩
  · rw [if_neg h0]
    by_cases h : s.SP.toNat - 1 < Config.stackDepth
    · exact .inr (.inl ⟨h, h0, dif_pos h⟩)
    · refine .inr (.inr ⟨?_, dif_neg h⟩)
      simp only [Config.stackDepth] at h ⊢
      omega

/-- FX0A's two cases: it samples and waits, or it takes a key and goes on. -/
theorem execLdVxK_cases (x : RegIdx) (s : State) :
    execLdVxK x s = .next s.sampleAndRewind ∨
    (s.kwPhase = .waiting ∧ ∃ k, lowestKey (newlyPressed s.kwSnap s.key) = some k ∧
      execLdVxK x s = .next { s.setReg x k with kwPhase := .idle }) := by
  unfold execLdVxK
  split
  · exact .inl rfl
  · next hw =>
    split
    · exact .inl rfl
    · next k hk => exact .inr ⟨hw, k, hk, rfl⟩

end Sys2Proof.Machine
end

