-- ==== Sys2Proof/Tests/Slice0.lean ====
section
/-! SUPPORT. The model's own tests: the checks of `wellFormed`, a word of every row of the opcode table written out from
its pattern, one-step tests whose expected results are the vectors of spec/95_test_vectors.md (cited by their names), and
for every statement with hypotheses a witness that meets them. -/

namespace Sys2Proof.Tests

open Sys2Proof.Machine

/-! ### Helpers -/

/-- The result is a next state with the property. -/
def nextHas (r : Result) (p : State → Bool) : Bool :=
  match r with
  | .next t => p t
  | .fault _ => false
  | .refused _ => false

def withRegs : List (RegIdx × Byte) → State → State
  | [], s => s
  | (x, v) :: l, s => withRegs l (s.setReg x v)

def withBytes : List (Word × Byte) → State → State
  | [], s => s
  | (a, v) :: l, s => withBytes l (s.memWrite a v)

def withPixels : List (Nat × Nat) → State → State
  | [], s => s
  | (x, y) :: l, s => withPixels l { s with pix := togglePixel s.pix x y }

/-- The reset state with some registers. -/
def regs (l : List (RegIdx × Byte)) : State := withRegs l State.reset

/-- The word at `pc`, the way the vectors place it, and one step. -/
def run (w : Nat) (s : State) : Result := step (s.withFetchWord 16 w)

/-- Exactly the pixels of the list are on. -/
def pixelsAre (p : PixelBuffer) (l : List (Nat × Nat)) : Bool := p == (withPixels l State.reset).pix

/-! ### Well-formedness -/

theorem test_wellFormed_refuses_sys_cls : (Instr.sys 0x0E0#12).wellFormed = false := by decide
theorem test_wellFormed_refuses_sys_ret : (Instr.sys 0x0EE#12).wellFormed = false := by decide
theorem test_wellFormed_accepts_neighbours :
    (Instr.sys 0x0E1#12).wellFormed = true ∧ (Instr.sys 0x1E0#12).wellFormed = true ∧ Instr.cls.wellFormed = true ∧
    Instr.ret.wellFormed = true ∧ (Instr.drw 0xF#4 0x0#4 0x0#4).wellFormed = true := by decide

/-! ### Decoding: one word of every row, written out from its pattern (30_encoding.md R75) -/

theorem test_decode_sys : decodeWord 0b0000000100100011#16 = .ok (.sys 0x123#12) := by decide
theorem test_decode_cls : decodeWord 0b0000000011100000#16 = .ok (.cls) := by decide
theorem test_decode_ret : decodeWord 0b0000000011101110#16 = .ok (.ret) := by decide
theorem test_decode_jp : decodeWord 0b0001101000101011#16 = .ok (.jp 0xA2B#12) := by decide
theorem test_decode_call : decodeWord 0b0010001101001101#16 = .ok (.call 0x34D#12) := by decide
theorem test_decode_seByte : decodeWord 0b0011010111000110#16 = .ok (.seByte 0x5#4 0xC6#8) := by decide
theorem test_decode_sneByte : decodeWord 0b0100011000011111#16 = .ok (.sneByte 0x6#4 0x1F#8) := by decide
theorem test_decode_seReg : decodeWord 0b0101000100100000#16 = .ok (.seReg 0x1#4 0x2#4) := by decide
theorem test_decode_ldByte : decodeWord 0b0110111101110101#16 = .ok (.ldByte 0xF#4 0x75#8) := by decide
theorem test_decode_addByte : decodeWord 0b0111001010000001#16 = .ok (.addByte 0x2#4 0x81#8) := by decide
theorem test_decode_ldReg : decodeWord 0b1000001101000000#16 = .ok (.ldReg 0x3#4 0x4#4) := by decide
theorem test_decode_orReg : decodeWord 0b1000001101000001#16 = .ok (.orReg 0x3#4 0x4#4) := by decide
theorem test_decode_andReg : decodeWord 0b1000001101000010#16 = .ok (.andReg 0x3#4 0x4#4) := by decide
theorem test_decode_xorReg : decodeWord 0b1000001101000011#16 = .ok (.xorReg 0x3#4 0x4#4) := by decide
theorem test_decode_addReg : decodeWord 0b1000001101000100#16 = .ok (.addReg 0x3#4 0x4#4) := by decide
theorem test_decode_subReg : decodeWord 0b1000001101000101#16 = .ok (.subReg 0x3#4 0x4#4) := by decide
theorem test_decode_shr : decodeWord 0b1000001101000110#16 = .ok (.shr 0x3#4 0x4#4) := by decide
theorem test_decode_subn : decodeWord 0b1000001101000111#16 = .ok (.subn 0x3#4 0x4#4) := by decide
theorem test_decode_shl : decodeWord 0b1000001101001110#16 = .ok (.shl 0x3#4 0x4#4) := by decide
theorem test_decode_sneReg : decodeWord 0b1001111000010000#16 = .ok (.sneReg 0xE#4 0x1#4) := by decide
theorem test_decode_ldI : decodeWord 0b1010111100010010#16 = .ok (.ldI 0xF12#12) := by decide
theorem test_decode_jpV0 : decodeWord 0b1011000111110010#16 = .ok (.jpV0 0x1F2#12) := by decide
theorem test_decode_rnd : decodeWord 0b1100001100001111#16 = .ok (.rnd 0x3#4 0x0F#8) := by decide
theorem test_decode_drw : decodeWord 0b1101000100100101#16 = .ok (.drw 0x1#4 0x2#4 0x5#4) := by decide
theorem test_decode_skp : decodeWord 0b1110011110011110#16 = .ok (.skp 0x7#4) := by decide
theorem test_decode_sknp : decodeWord 0b1110011110100001#16 = .ok (.sknp 0x7#4) := by decide
theorem test_decode_ldVxDT : decodeWord 0b1111011100000111#16 = .ok (.ldVxDT 0x7#4) := by decide
theorem test_decode_ldVxK : decodeWord 0b1111011100001010#16 = .ok (.ldVxK 0x7#4) := by decide
theorem test_decode_ldDTVx : decodeWord 0b1111011100010101#16 = .ok (.ldDTVx 0x7#4) := by decide
theorem test_decode_ldSTVx : decodeWord 0b1111011100011000#16 = .ok (.ldSTVx 0x7#4) := by decide
theorem test_decode_addIVx : decodeWord 0b1111011100011110#16 = .ok (.addIVx 0x7#4) := by decide
theorem test_decode_ldFVx : decodeWord 0b1111011100101001#16 = .ok (.ldFVx 0x7#4) := by decide
theorem test_decode_ldBVx : decodeWord 0b1111011100110011#16 = .ok (.ldBVx 0x7#4) := by decide
theorem test_decode_ldMemVx : decodeWord 0b1111011101010101#16 = .ok (.ldMemVx 0x7#4) := by decide
theorem test_decode_ldVxMem : decodeWord 0b1111011101100101#16 = .ok (.ldVxMem 0x7#4) := by decide

/-- One word of each group of 30_encoding.md R77, at the edges of the row that is defined. -/
theorem test_decode_unknown :
    decodeWord 0x5121#16 = .error .unknown5 ∧ decodeWord 0x512F#16 = .error .unknown5 ∧
    decodeWord 0x8018#16 = .error .unknown8 ∧ decodeWord 0x801D#16 = .error .unknown8 ∧
    decodeWord 0x801F#16 = .error .unknown8 ∧ decodeWord 0x912F#16 = .error .unknown9 ∧
    decodeWord 0xE09F#16 = .error .unknownE ∧ decodeWord 0xE000#16 = .error .unknownE ∧
    decodeWord 0xF0FF#16 = .error .unknownF ∧ decodeWord 0xF056#16 = .error .unknownF := by decide

/-- Bytes are big-endian and an instruction takes two of them (30_encoding.md R70, 20_memory.md R54). -/
theorem test_decode_bytes :
    decodeBytes [0x61, 0x23, 0x99] = .ok (.ldByte 0x1#4 0x23#8, [0x99]) ∧ decodeBytes [0x61] = .error .truncated ∧
    decodeBytes [] = .error .truncated := by decide

theorem test_decode_table_word :
    decodeTableWord 16 0xD125 = some (.drw 0x1#4 0x2#4 0x5#4) ∧ decodeTableWord 16 0xF0FF = none := by decide

/-! ### Fetch -/

/-- FETCH-1. -/
theorem test_fetch_big_endian :
    nextHas (step (withBytes [(0x200, 0x61), (0x201, 0x23)] State.reset))
      (fun t => t.pc == 0x202 && t.reg 0x1 == 0x23 && t.IR == 0x6123) = true := by decide

/-- FETCH-3. -/
theorem test_fetch_wraps_at_odd_pc :
    nextHas (step (withBytes [(0xFFF, 0x61), (0x000, 0x23)] { State.reset with pc := 0xFFF }))
      (fun t => t.pc == 0x001 && t.reg 0x1 == 0x23) = true := by decide

/-! ### Control transfer -/

/-- CTL-1. -/
theorem test_sys_does_nothing :
    nextHas (run 0x0123 State.reset)
      (fun t => t.pc == 0x202 && t.V == State.reset.V && t.SP == 0 && t.runState == .running) = true := by decide

/-- CTL-3. -/
theorem test_jp :
    nextHas (run 0x1234 State.reset)
      (fun t => t.pc == 0x234) = true := by decide

/-- CTL-5. -/
theorem test_call_pushes :
    nextHas (run 0x2300 State.reset)
      (fun t => t.pc == 0x300 && t.SP == 1 && t.stack[0] == 0x202) = true := by decide

/-- CTL-7. -/
theorem test_call_overflows :
    nextHas (run 0x2300 { State.reset with SP := 16, stack := Vector.replicate 16 0x202 })
      (fun t => t.pc == 0x202 && t.runState == .halted && t.haltCause.code == 2 && t.SP == 16 && t.stack == Vector.replicate 16 0x202) = true := by decide

/-- CTL-9. -/
theorem test_ret_pops :
    nextHas (run 0x00EE { State.reset with SP := 1, stack := State.reset.stack.set 0 0x402 })
      (fun t => t.pc == 0x402 && t.SP == 0 && t.stack[0] == 0x402) = true := by decide

/-- CTL-10. -/
theorem test_ret_underflows :
    nextHas (run 0x00EE State.reset)
      (fun t => t.pc == 0x202 && t.runState == .halted && t.haltCause.code == 3 && t.SP == 0) = true := by decide

/-- CTL-12. -/
theorem test_jpV0_wraps :
    nextHas (run 0xBFFF (regs [(0x0, 0x02)]))
      (fun t => t.pc == 0x001) = true := by decide

/-- CTL-13. -/
theorem test_jpV0_uses_V0 :
    nextHas (run 0xB1FF (regs [(0x1, 0x55)]))
      (fun t => t.pc == 0x1FF) = true := by decide

/-! ### Skips -/

/-- SKIP-1. -/
theorem test_seByte_skips :
    nextHas (run 0x3342 (regs [(0x3, 0x42)]))
      (fun t => t.pc == 0x204) = true := by decide

/-- SKIP-11. -/
theorem test_seByte_wraps :
    nextHas (run 0x3000 { State.reset with pc := 0xFFE })
      (fun t => t.pc == 0x002) = true := by decide

/-- SKIP-3. -/
theorem test_sneByte_skips :
    nextHas (run 0x4342 (regs [(0x3, 0x41)]))
      (fun t => t.pc == 0x204) = true := by decide

/-- SKIP-4. -/
theorem test_sneByte_stays :
    nextHas (run 0x4342 (regs [(0x3, 0x42)]))
      (fun t => t.pc == 0x202) = true := by decide

/-- SKIP-5. -/
theorem test_seReg_skips :
    nextHas (run 0x5120 (regs [(0x1, 0x07), (0x2, 0x07)]))
      (fun t => t.pc == 0x204) = true := by decide

/-- SKIP-8. -/
theorem test_sneReg_skips :
    nextHas (run 0x9120 (regs [(0x1, 0x07), (0x2, 0x08)]))
      (fun t => t.pc == 0x204) = true := by decide

/-- SKIP-9. -/
theorem test_sneReg_same_register :
    nextHas (run 0x9110 (regs [(0x1, 0x07)]))
      (fun t => t.pc == 0x202) = true := by decide

/-- SKIP-12. -/
theorem test_skp_pressed :
    nextHas (run 0xE09E { regs [(0x0, 0x0A)] with key := 0x0400 })
      (fun t => t.pc == 0x204) = true := by decide

/-- SKIP-16. -/
theorem test_skp_masks_the_index :
    nextHas (run 0xE09E { regs [(0x0, 0x15)] with key := 0x0020 })
      (fun t => t.pc == 0x204) = true := by decide

/-- SKIP-14. -/
theorem test_sknp_released :
    nextHas (run 0xE0A1 (regs [(0x0, 0x0A)]))
      (fun t => t.pc == 0x204) = true := by decide

/-- SKIP-15. -/
theorem test_sknp_pressed :
    nextHas (run 0xE0A1 { regs [(0x0, 0x0A)] with key := 0x0400 })
      (fun t => t.pc == 0x202) = true := by decide

/-! ### Arithmetic and logic -/

/-- ALU-2. -/
theorem test_ldByte_into_VF :
    nextHas (run 0x6F77 State.reset)
      (fun t => t.pc == 0x202 && t.reg 0xF == 0x77) = true := by decide

/-- ALU-4. -/
theorem test_addByte_wraps :
    nextHas (run 0x7201 (regs [(0x2, 0xFF), (0xF, 0x5A)]))
      (fun t => t.reg 0x2 == 0x00 && t.reg 0xF == 0x5A) = true := by decide

/-- ALU-5. -/
theorem test_ldReg :
    nextHas (run 0x8010 (regs [(0x1, 0x33)]))
      (fun t => t.reg 0x0 == 0x33 && t.reg 0x1 == 0x33) = true := by decide

/-- ALU-6. -/
theorem test_orReg :
    nextHas (run 0x8011 (regs [(0x0, 0x05), (0x1, 0x06)]))
      (fun t => t.reg 0x0 == 0x07) = true := by decide

/-- ALU-7. -/
theorem test_andReg :
    nextHas (run 0x8012 (regs [(0x0, 0x3C), (0x1, 0x0F)]))
      (fun t => t.reg 0x0 == 0x0C) = true := by decide

/-- ALU-8. -/
theorem test_xorReg :
    nextHas (run 0x8013 (regs [(0x0, 0xFF), (0x1, 0x0F)]))
      (fun t => t.reg 0x0 == 0xF0) = true := by decide

/-- ALU-14. -/
theorem test_addReg_into_VF :
    nextHas (run 0x8F14 (regs [(0xF, 0xF0), (0x1, 0x20)]))
      (fun t => t.reg 0xF == 0x10) = true := by decide

/-- ALU-15. -/
theorem test_addReg_old_VF :
    nextHas (run 0x80F4 (regs [(0x0, 0xFF), (0xF, 0x01)]))
      (fun t => t.reg 0x0 == 0x00 && t.reg 0xF == 0x01) = true := by decide

/-- ALU-17. -/
theorem test_subReg_equal :
    nextHas (run 0x8015 (regs [(0x0, 0x05), (0x1, 0x05)]))
      (fun t => t.reg 0x0 == 0x00 && t.reg 0xF == 0x01) = true := by decide

/-- ALU-18. -/
theorem test_subReg_borrow :
    nextHas (run 0x8015 (regs [(0x0, 0x00), (0x1, 0x01), (0xF, 0x01)]))
      (fun t => t.reg 0x0 == 0xFF && t.reg 0xF == 0x00) = true := by decide

/-- ALU-22. -/
theorem test_shr_ignores_y :
    nextHas (run 0x8236 (regs [(0x2, 0xFF), (0x3, 0x02)]))
      (fun t => t.reg 0x2 == 0x7F && t.reg 0xF == 0x01 && t.reg 0x3 == 0x02) = true := by decide

/-- ALU-23. -/
theorem test_shr_into_VF :
    nextHas (run 0x8F06 (regs [(0xF, 0x03)]))
      (fun t => t.reg 0xF == 0x01) = true := by decide

/-- ALU-24. -/
theorem test_subn_no_borrow :
    nextHas (run 0x8127 (regs [(0x1, 0x03), (0x2, 0x05)]))
      (fun t => t.reg 0x1 == 0x02 && t.reg 0xF == 0x01) = true := by decide

/-- ALU-25. -/
theorem test_subn_borrow :
    nextHas (run 0x8127 (regs [(0x1, 0x05), (0x2, 0x03)]))
      (fun t => t.reg 0x1 == 0xFE && t.reg 0xF == 0x00) = true := by decide

/-- ALU-27. -/
theorem test_shl_moves_bit_7 :
    nextHas (run 0x830E (regs [(0x3, 0x81)]))
      (fun t => t.reg 0x3 == 0x02 && t.reg 0xF == 0x01) = true := by decide

/-- ALU-29. -/
theorem test_shl_into_VF :
    nextHas (run 0x8F0E (regs [(0xF, 0x81)]))
      (fun t => t.reg 0xF == 0x02) = true := by decide

/-- ALU-30: the draw is the free value, here of a value the vector names. -/
theorem test_rnd_masks (h : Config.rand8 0 = 0xAB#8) :
    ∃ t, exec (.rnd 0x3#4 0x0F#8) State.reset = .next t ∧ t.reg 0x3#4 = 0x0B := by
  refine ⟨_, rfl, ?_⟩
  rw [State.reg_setReg_self]
  show Config.rand8 0 &&& 0x0F#8 = 0x0B
  rw [h]; decide

/-- ALU-31: 0 whatever is drawn. -/
theorem test_rnd_of_zero : ∃ t, exec (.rnd 0x3#4 0x00#8) (regs [(0x3, 0x77)]) = .next t ∧ t.reg 0x3#4 = 0x00 := by
  refine ⟨_, rfl, ?_⟩
  rw [State.reg_setReg_self]
  exact BitVec.and_zero

/-! ### The index register and memory -/

/-- MEM-1. -/
theorem test_ldI :
    nextHas (run 0xA300 State.reset)
      (fun t => t.I == 0x300) = true := by decide

/-- MEM-2. -/
theorem test_addIVx_leaves_VF :
    nextHas (run 0xF21E { regs [(0x2, 0x10), (0xF, 0x77)] with I := 0x300 })
      (fun t => t.I == 0x310 && t.reg 0xF == 0x77) = true := by decide

/-- MEM-3. -/
theorem test_addIVx_wraps :
    nextHas (run 0xF21E { regs [(0x2, 0x01)] with I := 0xFFF })
      (fun t => t.I == 0x000) = true := by decide

/-- MEM-5. -/
theorem test_ldMemVx_wraps :
    nextHas (run 0xF355 { regs [(0x0, 0x0A), (0x1, 0x0B), (0x2, 0x0C), (0x3, 0x0D)] with I := 0xFFE })
      (fun t => t.memRead 0xFFE == 0x0A && t.memRead 0xFFF == 0x0B && t.memRead 0x000 == 0x0C &&
        t.memRead 0x001 == 0x0D && t.memRead 0x002 == 0x90 && t.I == 0xFFE && t.mem.wf) = true := by decide

/-- MEM-16. -/
theorem test_ldMemVx_overwrites_the_next_instruction :
    nextHas (run 0xF255 { regs [(0x0, 0x12)] with I := 0x202 })
      (fun t => t.pc == 0x202 && t.fetchWord == 0x1200) = true := by decide

/-- MEM-6. -/
theorem test_ldVxMem_V0_only :
    nextHas (run 0xF065 (withBytes [(0x300, 0x99), (0x301, 0x88)] { State.reset with I := 0x300 }))
      (fun t => t.reg 0x0 == 0x99 && t.reg 0x1 == 0x00 && t.I == 0x300) = true := by decide

/-- MEM-8. -/
theorem test_ldVxMem_reads_the_font :
    nextHas (run 0xFF65 State.reset)
      (fun t => t.V == #v[0xF0, 0x90, 0x90, 0x90, 0xF0, 0x20, 0x60, 0x20, 0x20, 0x70, 0xF0, 0x10, 0xF0, 0x80, 0xF0, 0xF0]) = true := by decide

/-- MEM-9. -/
theorem test_ldBVx :
    nextHas (run 0xFA33 { regs [(0xA, 0xFE)] with I := 0x300 })
      (fun t => t.memRead 0x300 == 0x02 && t.memRead 0x301 == 0x05 && t.memRead 0x302 == 0x04) = true := by decide

/-- MEM-12. -/
theorem test_ldBVx_wraps :
    nextHas (run 0xFA33 { regs [(0xA, 0x64)] with I := 0xFFF })
      (fun t => t.memRead 0xFFF == 0x01 && t.memRead 0x000 == 0x00 && t.memRead 0x001 == 0x00) = true := by decide

/-- MEM-13. -/
theorem test_ldFVx :
    nextHas (run 0xF029 (regs [(0x0, 0x0A)]))
      (fun t => t.I == 0x032) = true := by decide

/-- MEM-15. -/
theorem test_ldFVx_is_not_masked :
    nextHas (run 0xF029 (regs [(0x0, 0xFF)]))
      (fun t => t.I == 0x4FB) = true := by decide

/-! ### Display -/

/-- DRW-1. -/
theorem test_cls :
    nextHas (run 0x00E0 (withPixels [(0, 0), (63, 31)] State.reset))
      (fun t => t.needsRedraw && pixelsAre t.pix []) = true := by decide

/-- DRW-3. -/
theorem test_drw_glyph :
    nextHas (run 0xD125 State.reset)
      (fun t => t.needsRedraw && t.reg 0xF == 0x00 && pixelsAre t.pix [(0, 0), (1, 0), (2, 0), (3, 0), (0, 1), (3, 1), (0, 2),
        (3, 2), (0, 3), (3, 3), (0, 4), (1, 4), (2, 4), (3, 4)]) = true := by decide

/-- DRW-10. -/
theorem test_drw_old_VF_is_the_origin :
    nextHas (run 0xDF51 (withPixels [(5, 5)] (withBytes [(0x300, 0x80)]
      { regs [(0xF, 0x05), (0x5, 0x05)] with I := 0x300 })))
      (fun t => t.reg 0xF == 0x01 && pixelsAre t.pix []) = true := by decide

/-! ### Timers and the key wait -/

/-- TMR-1. -/
theorem test_ldVxDT :
    nextHas (run 0xF507 { State.reset with DT := 0x3C })
      (fun t => t.reg 0x5 == 0x3C && t.DT == 0x3C) = true := by decide

/-- TMR-2. -/
theorem test_ldDTVx :
    nextHas (run 0xF515 (regs [(0x5, 0x3C)]))
      (fun t => t.DT == 0x3C && t.ST == 0x00) = true := by decide

/-- TMR-3. -/
theorem test_ldSTVx :
    nextHas (run 0xF518 (regs [(0x5, 0x02)]))
      (fun t => t.ST == 0x02 && t.soundActive) = true := by decide

/-- TMR-4. -/
theorem test_ldSTVx_silences :
    nextHas (run 0xF518 { State.reset with ST := 0x09 })
      (fun t => t.ST == 0x00 && !t.soundActive) = true := by decide

/-- KEY-4. -/
theorem test_ldVxK_takes_the_lowest :
    nextHas (run 0xF30A { State.reset with kwPhase := .waiting, key := 0x0210 })
      (fun t => t.pc == 0x202 && t.kwPhase == .idle && t.reg 0x3 == 0x04) = true := by decide

/-- KEY-6. -/
theorem test_ldVxK_resamples :
    nextHas (run 0xF30A { State.reset with kwPhase := .waiting, kwSnap := 0xFFFF, pc := 0x000 })
      (fun t => t.kwSnap == 0 && t.pc == 0x000 && t.kwPhase == .waiting) = true := by decide

/-! ### Errors, ticks and run control -/

/-- SKIP-17. -/
theorem test_unknown_report :
    (State.reset.withFetchWord 16 0xE09F).unknownReport = some { word := 0xE09F, addr := 0x200 } ∧
    nextHas (run 0xE09F State.reset) (fun t => t.pc == 0x202 && t.runState == .running) = true := by decide

/-- TICK-2. -/
theorem test_ticks_stop_at_zero :
    nextHas (performAll (List.replicate 5 .tick) { State.reset with DT := 3 }) (fun t => t.DT == 0) = true := by decide

/-- RUN-1 and RUN-2. -/
theorem test_pause :
    nextHas (performAll [.pauseToggle, .step, .tick] { State.reset.withFetchWord 16 0x6001 with DT := 5 })
      (fun t => t.runState == .paused && t.DT == 5 && t.pc == 0x200) = true ∧
    nextHas (performAll [.pauseToggle, .step, .tick, .pauseToggle, .step] (State.reset.withFetchWord 16 0x6001))
      (fun t => t.runState == .running && t.reg 0x0 == 0x01 && t.pc == 0x202) = true := by decide

/-- RUN-5. -/
theorem test_halted_ignores :
    performAll [.pauseToggle, .quit, .step, .tick] { State.reset with runState := .halted, haltCause := .stackOverflow } =
      .next { State.reset with runState := .halted, haltCause := .stackOverflow } := rfl

/-- P1's image loads, and its first word is its first two bytes. -/
theorem test_reset_loads :
    nextHas (perform (.reset (.image [0x60, 0x05, 0x61, 0x06, 0x80, 0x14, 0x00, 0xE0])) State.reset)
      (fun t => t.fetchWord == 0x6005 && t.memRead 0x207 == 0xE0 && t.memRead 0x208 == 0x00 && t.mem.wf) = true := by decide

/-- RUN-6. -/
theorem test_frame_acknowledge :
    nextHas (perform .redrawAck { State.reset with runState := .halted, needsRedraw := true })
      (fun t => !t.needsRedraw && t.runState == .halted) = true := by decide

/-! ### Witnesses: for every statement with hypotheses, concrete states and operands that meet them, clause by clause -/

/-- The reset state with a word at `pc`. -/
def at200 (w : Nat) : State := State.reset.withFetchWord 16 w

/-- A full stack of return addresses, the key wait in progress on an FX0A at `pc`. -/
def busy : State :=
  { at200 0xF30A with SP := 16, stack := Vector.replicate 16 0x202, kwPhase := .waiting, key := 0x0210, kwSnap := 0x0010 }

theorem witness_ResetMemoryIsFontAndZeros :
    (80 ≤ (0x050 : Word).toNat ∧ (0x050 : Word).toNat < 4096) ∧ 80 ≤ (0xFFF : Word).toNat ∧ (0xFFF : Word).toNat < 4096 := by
  decide

/-- An image of two bytes, the empty image, the longest image, one byte too many, and an unreadable one. -/
theorem witness_ResetLoadsOrRejectsTheImage :
    [0x12#8, 0x00#8].length ≤ 3584 ∧ (1 < [0x12#8, 0x00#8].length) ∧ ([] : List Byte).length ≤ 3584 ∧
    (List.replicate 3584 0x11#8).length ≤ 3584 ∧ 3583 < (List.replicate 3584 0x11#8).length ∧
    (0x1FF#16).toNat < 0x200 ∧ 0x200 + [0x12#8, 0x00#8].length ≤ (0x202#16).toNat ∧ (0xFFF#16).toNat < 4096 ∧
    (RomImage.image (List.replicate 3585 0x11#8) = .unreadable ∨
      ∃ bytes, RomImage.image (List.replicate 3585 0x11#8) = .image bytes ∧ 3584 < bytes.length) ∧
    (RomImage.unreadable = .unreadable ∨ ∃ bytes, RomImage.unreadable = .image bytes ∧ 3584 < bytes.length) := by
  refine ⟨by decide, by decide, by decide, ?_, ?_, by decide, by decide, by decide, .inr ⟨_, rfl, ?_⟩, .inl rfl⟩ <;>
    simp only [List.length_replicate] <;> decide

theorem witness_FirstFetchAfterResetIsAtTheEntryPoint :
    [0x12#8, 0x00#8].length ≤ 3584 ∧ ∃ rest, [0x12#8, 0x00#8] = 0x12#8 :: 0x00#8 :: rest := ⟨by decide, [], rfl⟩

theorem witness_DecodeOfEncode : (Instr.sys 0x0E1#12).wellFormed = true ∧ (Instr.sys 0x0ED#12).wellFormed = true := by decide

theorem witness_DecodedBytesAreTheEncoding :
    decodeBytes [0x00, 0xE0, 0x99] = .ok (.cls, [0x99]) ∧ decodeBytes [0xFF, 0x65] = .ok (.ldVxMem 0xF#4, []) := by decide

theorem witness_StepRunsDecodedInstruction :
    (at200 0x6005).runState = .running ∧
    decodeBytes [(at200 0x6005).memRead (at200 0x6005).pc, (at200 0x6005).memRead ((at200 0x6005).pc + 1#16)] =
      .ok (.ldByte 0x0#4 0x05#8, []) := by decide

theorem witness_UnknownWordIsReportedAndIgnored :
    ((at200 0xE000).runState = .running ∧ decodeWord (at200 0xE000).fetchWord = .error .unknownE) ∧
    decodeWord (at200 0x6001).fetchWord = .ok (.ldByte 0x0#4 0x01#8) ∧ (at200 0xE000).pauseToggle.runState ≠ .running := by
  decide

/-- The flag's clauses: a destination that is not VF, with and without carry, borrow and a bit moved out. -/
theorem witness_AddRegistersSetsCarryThenSum : (0x0#4 : RegIdx) ≠ 0xF#4 ∧ (0xE#4 : RegIdx) ≠ 0xF#4 := by decide
theorem witness_SubtractionsSetNoBorrowThenDifference : (0x1#4 : RegIdx) ≠ 0xF#4 := by decide
theorem witness_ShiftsMoveOneBitIntoTheFlag : (0x2#4 : RegIdx) ≠ 0xF#4 := by decide

/-- An empty stack, and one with a single place left. -/
theorem witness_CallPushesTheReturnAddress :
    State.reset.SP.toNat < 16 ∧ ({ State.reset with SP := 15 } : State).SP.toNat < 16 ∧
    (0 < 16 ∧ 0 ≠ ({ State.reset with SP := 15 } : State).SP.toNat) := by decide

/-- One entry, and a full stack. -/
theorem witness_ReturnPopsTheNewestEntry :
    (0 < ({ State.reset with SP := 1 } : State).SP.toNat ∧ ({ State.reset with SP := 1 } : State).SP.toNat ≤ 16) ∧
    0 < busy.SP.toNat ∧ busy.SP.toNat ≤ 16 := by decide

theorem witness_StackErrorsAreFatalAndChangeNothingElse : busy.SP = 16#8 ∧ State.reset.SP = 0#8 := by decide

/-- The call's own next state is one to return from. -/
theorem witness_ReturnComesBackToAfterTheCall :
    (State.reset.SP.toNat < 16 ∧ State.reset.pc.toNat < 4096) ∧
    ∃ t u : State, exec (.call 0x300#12) State.reset = .next t ∧ u.SP = t.SP ∧ u.stack = t.stack ∧
      0 < t.SP.toNat := ⟨by decide, _, _, rfl, rfl, rfl, by decide⟩

/-- A register equal to the byte and one that is not; two registers equal and two that are not. -/
theorem witness_RegisterSkipsMoveOverOneInstruction :
    (regs [(0x3, 0x42)]).reg 0x3#4 = 0x42#8 ∧ (regs [(0x3, 0x41)]).reg 0x3#4 ≠ 0x42#8 ∧
    (regs [(0x3, 0x42)]).reg 0x1#4 = (regs [(0x3, 0x42)]).reg 0x2#4 ∧
    (regs [(0x3, 0x42)]).reg 0x3#4 ≠ (regs [(0x3, 0x42)]).reg 0x2#4 := by decide

/-- A pressed key and a released one, named by register values below and above 15. -/
theorem witness_KeySkipsTestTheLowFourBits :
    busy.key.getLsbD (((regs [(0x0, 0x14)]).reg 0x0#4).toNat % 16) = true ∧
    busy.key.getLsbD (((regs [(0x0, 0x05)]).reg 0x0#4).toNat % 16) = false := by decide

/-- The canonical form holds of a state with bytes listed; register numbers 0, x and 15 are in range. -/
theorem witness_StoreBlockWritesTheRegisters :
    (at200 0xF255).mem.wf = true ∧ (at200 0xF255).mem ≠ [] ∧ (0x0#4 : RegIdx).toNat ≤ (0x0#4 : RegIdx).toNat ∧
    (0xF#4 : RegIdx).toNat ≤ (0xF#4 : RegIdx).toNat := by decide

theorem witness_LoadBlockReadsTheRegisters :
    (0x0#4 : RegIdx).toNat ≤ (0x0#4 : RegIdx).toNat ∧ (0x2#4 : RegIdx).toNat ≤ (0xF#4 : RegIdx).toNat := by decide

theorem witness_BcdStoresTheThreeDigits : (at200 0xFA33).mem.wf = true := by decide

/-- The same byte under an address above 0xFFF, and another byte. -/
theorem witness_MemoryIsReadAsWritten :
    (at200 0x6005).mem.wf = true ∧ (0x1200#16).toNat % 4096 = (0x200#16).toNat % 4096 ∧
    (0xFFF#16).toNat % 4096 ≠ (0x200#16).toNat % 4096 := by decide

theorem witness_CanonicalMemoriesAreEqualByContents :
    (at200 0x6005).mem.wf = true ∧
    ((State.reset.memWrite 0x201 0x05).memWrite 0x200 0x60).mem.wf = true ∧
    (∀ a, a < 4096 → (at200 0x6005).mem.read a = ((State.reset.memWrite 0x201 0x05).memWrite 0x200 0x60).mem.read a) := by
  have e : (at200 0x6005).mem = ((State.reset.memWrite 0x201 0x05).memWrite 0x200 0x60).mem := by decide
  exact ⟨by decide, by decide, fun a _ => by rw [e]⟩

/-- A store over both bytes of the next word, and one over the high byte alone. -/
theorem witness_StoresAreSeenByTheNextFetch :
    (∃ t, exec (.ldMemVx 0x1#4) { at200 0xF155 with I := 0x200 } = .next t) ∧ (at200 0xF155).mem.wf = true ∧
    indexAddr 0x200 (0x0#4 : RegIdx).toNat = addr12 (at200 0xF155).pc ∧
    indexAddr 0x200 (0x1#4 : RegIdx).toNat = addr12 ((at200 0xF155).pc + 1#16) ∧
    ¬ bytesFrom 0x300 ((0x1#4 : RegIdx).toNat + 1) (at200 0xF155).pc ∧
    ¬ bytesFrom 0x200 ((0x0#4 : RegIdx).toNat + 1) ((at200 0xF155).pc + 1#16) := by
  refine ⟨⟨_, rfl⟩, by decide, by decide, by decide, ?_, ?_⟩
  · rintro ⟨r, hr, e⟩
    have hr' : r < 2 := hr
    interval_cases r <;> revert e <;> decide
  · rintro ⟨r, hr, e⟩
    have hr' : r < 1 := hr
    interval_cases r; revert e; decide

/-- Glyph 0 at (60, 30): the pixel it covers in the last column, and one inside it that it leaves; at (0, 0) a covered
pixel that was on; and a sprite of no rows, which covers nothing. -/
theorem witness_DrawTogglesThePixelsOfTheSprite :
    spriteCovers State.reset 60 30 5 63 30 ∧ ¬ spriteCovers State.reset 60 30 5 61 31 ∧
    (∃ px py, spriteCovers State.reset 0 0 5 px py ∧ pixelAt (withPixels [(3, 4)] State.reset).pix px py = true) ∧
    ¬ ∃ px py, spriteCovers State.reset 0 0 0 px py ∧ pixelAt State.reset.pix px py = true := by
  refine ⟨by unfold spriteCovers; decide, by unfold spriteCovers; decide,
    ⟨3, 4, by unfold spriteCovers; decide, by decide⟩, ?_⟩
  rintro ⟨px, py, ⟨_, _, h1, h2, _⟩, _⟩
  omega

/-- A first draw that collides nowhere and leaves the origin's registers. -/
theorem witness_DrawingTwiceRestoresThePixels :
    ∃ t, exec (.drw 0x1#4 0x2#4 0x5#4) State.reset = .next t ∧ t.reg 0x1#4 = State.reset.reg 0x1#4 ∧
      t.reg 0x2#4 = State.reset.reg 0x2#4 := ⟨_, rfl, by decide, by decide⟩

theorem witness_TicksCountBothTimersDownToZero :
    State.reset.runState = .running ∧
    ∃ t, exec (.ldDTVx 0x5#4) (regs [(0x5, 0x3C)]) = .next t ∧ (∀ x, Instr.ldDTVx 0x5#4 ≠ .ldSTVx x) ∧
      ∃ u, exec .cls State.reset = .next u ∧ (∀ x, Instr.cls ≠ .ldDTVx x) ∧ ∀ x, Instr.cls ≠ .ldSTVx x :=
  ⟨rfl, _, rfl, by simp, _, rfl, by simp, by simp⟩

/-- Idle; and waiting with every pressed key held since the sample. -/
theorem witness_KeyWaitSamplesAndWaits :
    (State.reset.kwPhase = .idle) ∧
    (({ busy with kwSnap := busy.key } : State).kwPhase = .waiting ∧
      ∀ k, k < 16 → ¬ (busy.key.getLsbD k = false ∧ busy.key.getLsbD k = true)) := by decide

/-- Key 9 newly pressed while key 4 is held; the lowest key, 0, and the highest, 15. -/
theorem witness_KeyWaitTakesTheLowestNewKey :
    (busy.kwPhase = .waiting ∧ busy.kwSnap.getLsbD 9 = false ∧ busy.key.getLsbD 9 = true ∧
      ∀ j, j < 9 → ¬ (busy.kwSnap.getLsbD j = false ∧ busy.key.getLsbD j = true)) ∧
    ((0x0000 : Keys).getLsbD 0 = false ∧ (0xFFFF : Keys).getLsbD 0 = true) ∧
    ((0x7FFF : Keys).getLsbD 15 = false ∧ (0xFFFF : Keys).getLsbD 15 = true ∧
      ∀ j, j < 15 → ¬ ((0x7FFF : Keys).getLsbD j = false ∧ (0xFFFF : Keys).getLsbD j = true)) := by decide

/-- A step that leaves the latch Waiting, and one that leaves it Idle. -/
theorem witness_KeyWaitStepStaysOnItself :
    ((at200 0xF30A).runState = .running ∧ (at200 0xF30A).pc.toNat < 4096 ∧
      decodeWord (at200 0xF30A).fetchWord = .ok (.ldVxK 0x3#4) ∧
      ∃ t, step (at200 0xF30A) = .next t ∧ t.kwPhase = .waiting) ∧
    (busy.runState = .running ∧ busy.pc.toNat < 4096 ∧ decodeWord busy.fetchWord = .ok (.ldVxK 0x3#4) ∧
      ∃ t, step busy = .next t ∧ t.kwPhase = .idle) :=
  ⟨⟨by decide, by decide, by decide, _, rfl, by decide⟩, by decide, by decide, by decide, _, rfl, by decide⟩

theorem witness_PauseAndQuitFollowTheTable :
    State.reset.runState = .running ∧ State.reset.pauseToggle.runState = .paused ∧ State.reset.quit.runState = .halted ∧
    State.reset.pauseToggle.runState ≠ .halted := by decide

theorem witness_PausedAndHaltedDoNothing :
    State.reset.pauseToggle.runState ≠ .running ∧ State.reset.quit.runState ≠ .running := by decide

theorem witness_HaltedIsTerminalUntilReset :
    (State.reset.quit.runState = .halted ∧
      ∀ op ∈ [HostOp.step, .tick, .keyIn 0xFFFF, .pauseToggle, .quit, .redrawAck], op.isReset = false) ∧
    [0x12#8, 0x00#8].length ≤ 3584 ∧
    (at200 0x5121).runState = .running ∧ decodeWord (at200 0x5121).fetchWord = .error .unknown5 := by decide

/-- One step that halts, from which further steps do nothing. -/
theorem witness_RunningInstructionsStopsAtHalt :
    ∃ t, runInstructions 1 (at200 0x00EE) = .next t ∧ t.runState = .halted := ⟨_, rfl, by decide⟩

theorem witness_FrameAcknowledgeClearsOnlyTheRedrawFlag :
    (63 < 64 ∧ 31 < 32) ∧ HostOp.tick ≠ .step ∧ HostOp.tick.isReset = false ∧
    ∃ t, perform .tick State.reset = .next t := ⟨by decide, by decide, by decide, _, rfl⟩

theorem witness_KeypadIsTheHostsAlone :
    (∃ t, exec .cls State.reset = .next t) ∧ ∀ x, Instr.cls ≠ .skp x ∧ Instr.cls ≠ .sknp x ∧ Instr.cls ≠ .ldVxK x :=
  ⟨⟨_, rfl⟩, by simp⟩

/-- FX55 writes bytes and nothing else, FX65 registers up to its own. -/
theorem witness_OnlyItsWritersChangeAnElement :
    (∃ t, exec (.ldMemVx 0x1#4) State.reset = .next t) ∧ (Instr.ldMemVx 0x1#4).writes .I = false ∧
    (Instr.ldMemVx 0x1#4).writesReg 0x0#4 = false ∧ ¬ (Instr.ldMemVx 0x1#4).writesByte State.reset 0x002 ∧
    (Instr.ldVxMem 0x1#4).writesReg 0x2#4 = false := by
  refine ⟨⟨_, rfl⟩, by decide, by decide, ?_, by decide⟩
  rintro ⟨r, hr, e⟩
  have hr' : r < 2 := hr
  interval_cases r <;> revert e <;> decide

theorem witness_OnlyStackErrorsChangeTheRunState :
    (∃ t, exec (.call 0x300#12) busy = .next t ∧ (t.runState ≠ busy.runState ∨ t.haltCause ≠ busy.haltCause)) ∧
    ∃ t, exec .ret State.reset = .next t ∧ (t.runState ≠ State.reset.runState ∨ t.haltCause ≠ State.reset.haltCause) :=
  ⟨⟨_, rfl, by decide⟩, _, rfl, by decide⟩

theorem witness_EveryInstructionCompletesInLegalStates :
    State.reset.SP.toNat ≤ 16 ∧ busy.SP.toNat ≤ 16 ∧ 16 < ({ State.reset with SP := 17 } : State).SP.toNat ∧
    16 < ({ State.reset with SP := 0xFF } : State).SP.toNat ∧
    ¬ ((∃ nnn, Instr.cls = .call nnn) ∨ Instr.cls = .ret) := by
  refine ⟨by decide, by decide, by decide, by decide, by simp⟩

/-- A full stack and a key wait in progress are within the invariant. -/
theorem busy_inv : busy.Inv where
  mem_wf := by decide
  pc_lt := by decide
  I_lt := by decide
  SP_le := by decide
  stack_lt := by decide
  halted_iff := by decide
  waiting_at_key_wait := fun _ => ⟨0x3#4, by decide⟩

theorem witness_StepKeepsTheInvariant : busy.Inv ∧ ∃ t, step busy = .next t := ⟨busy_inv, _, rfl⟩

theorem witness_EveryHostSequenceIsSafe : busy.Inv := busy_inv

/-- Two states apart in IR, in a stack entry past the depth and in the sample of a wait that is not in progress. -/
theorem witness_InvisibleStateNeverMatters :
    SameVisible (at200 0xF30A)
      { at200 0xF30A with IR := 0x1234, stack := Vector.replicate 16 0x678, kwSnap := 0x5555 } ∧
    (∃ t, perform .step (at200 0xF30A) = .next t) ∧
    SameVisible { at200 0x2300 with SP := 17 } { at200 0x2300 with SP := 17, IR := 0x1234 } ∧
    perform .step { at200 0x2300 with SP := 17 } = .fault .illegalStackPointer := by
  refine ⟨⟨rfl, rfl, rfl, ?_, rfl, rfl, rfl, rfl, rfl, rfl, rfl, rfl, rfl, rfl, ?_, rfl⟩, ⟨_, rfl⟩,
    ⟨rfl, rfl, rfl, fun _ _ _ => rfl, rfl, rfl, rfl, rfl, rfl, rfl, rfl, rfl, rfl, rfl, fun _ => rfl, rfl⟩, rfl⟩
  · intro j _ hj; exact absurd hj (Nat.not_lt_zero j)
  · intro h; exact absurd h (by decide)

theorem witness_ParkedStaysParked : (at200 0x1200).ParkedAt 0x200#12 := ⟨by decide, by decide, by decide⟩

end Sys2Proof.Tests
end

/-! Control transfer (40_control.md): what a jump to an address field does to `pc` and to the rest of the state. -/
section
namespace Sys2Proof.Machine

/-! ### Address fields -/

@[simp] theorem addrOf_toNat (nnn : Addr) : (addrOf nnn).toNat = nnn.toNat := by
  rw [addrOf, BitVec.toNat_setWidth]
  exact Nat.mod_eq_of_lt (nnn.isLt.trans (by decide))

/-- A 12-bit address field is within the RAM, so the reduction of `pc` and `I` leaves it as it is. -/
@[simp] theorem addr12_addrOf (nnn : Addr) : addr12 (addrOf nnn) = addrOf nnn :=
  addr12_of_lt ((addrOf_toNat nnn).trans_lt nnn.isLt)

/-! ### The frame of a write to `pc` -/

theorem State.setPc_changesOnly (s : State) (a : Word) : ChangesOnly noReg noByte [.pc] s (s.setPc a) where
  regs_same r _ := State.reg_congr (State.setPc_V s a) r
  mem_same b _ := State.memRead_congr (State.setPc_mem s a) b
  elems_same e he := by
    cases e with
    | pc => exact absurd List.mem_cons_self he
    | _ => rfl

/-! ### JP addr -/

theorem exec_jp (nnn : Addr) (s : State) : exec (.jp nnn) s = .next (s.setPc (addrOf nnn)) := rfl

end Sys2Proof.Machine

namespace Sys2Proof

open Machine

/-- Settles O21: the next state is `s.setPc` of the address field, which `addr12` does not reduce further. -/
theorem jumpSetsTheProgramCounter : Obligations.JumpSetsTheProgramCounter := by
  intro nnn s
  have hpc : (s.setPc (addrOf nnn)).pc.toNat = nnn.toNat := by
    rw [State.setPc_pc, addr12_addrOf, addrOf_toNat]
  exact ⟨s.setPc (addrOf nnn), exec_jp nnn s, hpc, State.setPc_changesOnly s _⟩

end Sys2Proof
end

/-! Arithmetic and logic (42_alu.md R142 to R147): the instructions that write their destination register and no flag. -/
section
namespace Sys2Proof.Machine

/-! ### The frame of a register write -/

theorem State.setReg_changesOnly (s : State) (x : RegIdx) (v : Byte) :
    ChangesOnly (onlyReg x) noByte [] s (s.setReg x v) where
  regs_same _ hr := State.reg_setReg_ne s v hr
  mem_same a _ := State.memRead_congr (State.setReg_mem s x v) a
  elems_same e _ := by cases e <;> rfl

/-! ### LD, ADD with a byte; OR, AND, XOR -/

theorem exec_ldByte (x : RegIdx) (kk : Byte) (s : State) : exec (.ldByte x kk) s = .next (s.setReg x kk) := rfl

theorem exec_addByte (x : RegIdx) (kk : Byte) (s : State) :
    exec (.addByte x kk) s = .next (s.setReg x (s.reg x + kk)) := rfl

theorem exec_orReg (x y : RegIdx) (s : State) :
    exec (.orReg x y) s = .next (s.setReg x (s.reg x ||| s.reg y)) := rfl

theorem exec_andReg (x y : RegIdx) (s : State) :
    exec (.andReg x y) s = .next (s.setReg x (s.reg x &&& s.reg y)) := rfl

theorem exec_xorReg (x y : RegIdx) (s : State) :
    exec (.xorReg x y) s = .next (s.setReg x (s.reg x ^^^ s.reg y)) := rfl

end Sys2Proof.Machine

namespace Sys2Proof

open Machine

/-- Settles O12: the next state is `s.setReg x kk`, for every `x`. -/
theorem loadByteWritesItsRegister : Obligations.LoadByteWritesItsRegister := by
  intro x kk s
  exact ⟨s.setReg x kk, exec_ldByte x kk s, State.reg_setReg_self s x kk, State.setReg_changesOnly s x kk⟩

/-- Settles O13: the destination gets the sum of two bytes, which wraps modulo 256; the frame of one register write
leaves VF alone. -/
theorem addByteWrapsWithoutFlag : Obligations.AddByteWrapsWithoutFlag := by
  intro x kk s
  have hsum : ((s.setReg x (s.reg x + kk)).reg x).toNat = ((s.reg x).toNat + kk.toNat) % 256 := by
    rw [State.reg_setReg_self, BitVec.toNat_add]
  exact ⟨s.setReg x (s.reg x + kk), exec_addByte x kk s, hsum, State.setReg_changesOnly s x _⟩

/-- Settles O15: each of the three is one register write, whose value is the operation bit by bit. -/
theorem logicWritesOnlyItsDestination : Obligations.LogicWritesOnlyItsDestination := by
  intro x y s
  refine ⟨⟨_, exec_orReg x y s, State.setReg_changesOnly s x _, fun k => ?_⟩,
    ⟨_, exec_andReg x y s, State.setReg_changesOnly s x _, fun k => ?_⟩,
    ⟨_, exec_xorReg x y s, State.setReg_changesOnly s x _, fun k => ?_⟩⟩
  · rw [State.reg_setReg_self, BitVec.getLsbD_or]
  · rw [State.reg_setReg_self, BitVec.getLsbD_and]
  · rw [State.reg_setReg_self, BitVec.getLsbD_xor]

end Sys2Proof
end

/-! Display (44_display.md R191): the clear, and the frame of a write to the pixel buffer that marks the redraw. -/
section
namespace Sys2Proof.Machine

/-! ### The frame of a display write -/

/-- Whatever buffer a display instruction leaves, only the pixels and the redraw flag differ from the state before. -/
theorem State.redrawnPix_changesOnly (s : State) (p : PixelBuffer) :
    ChangesOnly noReg noByte [.pix, .needsRedraw] s { s with pix := p, needsRedraw := true } where
  regs_same r _ := State.reg_congr rfl r
  mem_same a _ := State.memRead_congr rfl a
  elems_same e he := by
    cases e with
    | pix => exact absurd List.mem_cons_self he
    | needsRedraw => exact absurd (List.mem_cons_of_mem _ List.mem_cons_self) he
    | _ => rfl

/-! ### CLS -/

theorem exec_cls (s : State) : exec .cls s = .next { s with pix := clearPixels, needsRedraw := true } := rfl

end Sys2Proof.Machine

namespace Sys2Proof

open Machine

/-- Settles O36: the next state holds the cleared buffer, every pixel of which is off, under the frame of a display
write. -/
theorem clearScreenTurnsEveryPixelOff : Obligations.ClearScreenTurnsEveryPixelOff := by
  intro s
  exact ⟨_, exec_cls s, pixelAt_clearPixels, rfl, State.redrawnPix_changesOnly s clearPixels⟩

end Sys2Proof
end

/-! Timers (45_timers_keys.md R211, R212): the writes of DT and ST from a register, and the sound output that ST drives. -/
section
namespace Sys2Proof.Machine

/-! ### The frame of a timer write -/

theorem State.writeDT_changesOnly (s : State) (v : Byte) :
    ChangesOnly noReg noByte [.DT] s { s with DT := v } where
  regs_same r _ := State.reg_congr rfl r
  mem_same a _ := State.memRead_congr rfl a
  elems_same e he := by
    cases e with
    | DT => exact absurd List.mem_cons_self he
    | _ => rfl

theorem State.writeST_changesOnly (s : State) (v : Byte) :
    ChangesOnly noReg noByte [.ST] s { s with ST := v } where
  regs_same r _ := State.reg_congr rfl r
  mem_same a _ := State.memRead_congr rfl a
  elems_same e he := by
    cases e with
    | ST => exact absurd List.mem_cons_self he
    | _ => rfl

/-! ### The sound output -/

theorem State.soundActive_iff (s : State) : s.soundActive = true ↔ s.ST ≠ 0 := bne_iff_ne

/-! ### LD DT, Vx; LD ST, Vx -/

theorem exec_ldDTVx (x : RegIdx) (s : State) : exec (.ldDTVx x) s = .next { s with DT := s.reg x } := rfl

theorem exec_ldSTVx (x : RegIdx) (s : State) : exec (.ldSTVx x) s = .next { s with ST := s.reg x } := rfl

end Sys2Proof.Machine

namespace Sys2Proof

open Machine

/-- Settles O39: each instruction is one timer write of `s.reg x`, and the sound output of the state with the new ST is
whether that byte is nonzero. -/
theorem timerWritesTakeTheRegister : Obligations.TimerWritesTakeTheRegister := by
  intro x s
  exact ⟨⟨_, exec_ldDTVx x s, rfl, State.writeDT_changesOnly s _⟩,
    ⟨_, exec_ldSTVx x s, rfl, State.soundActive_iff _, State.writeST_changesOnly s _⟩⟩

end Sys2Proof
end

/-! Reset (70_reset_and_hazards.md R272, R274): the bytes of a loaded image, the instruction register through the execute
phase, and the first fetch after a reset. -/
section
namespace Sys2Proof.Machine

/-! ### The bytes of a loaded image -/

/-- Byte `k` of a loaded image stands `k` addresses above its first. -/
theorem Memory.read_load_inside {m : Memory} (hm : m.wf = true) (bs : List Byte) {a k : Nat}
    (hfit : a + bs.length ≤ Config.memSize) (hk : k < bs.length) : (m.load a bs).read (a + k) = bs[k] := by
  induction bs generalizing m a k with
  | nil => cases hk
  | cons v bs ih =>
    rw [List.length_cons] at hfit hk
    rw [Memory.load]
    cases k with
    | zero =>
      exact (Memory.read_load_outside _ bs (.inl (Nat.lt_add_one a))).trans (Memory.read_write_self hm a v)
    | succ k =>
      have hwf : (m.write a v).wf = true := Memory.wf_write hm (by omega) v
      rw [← Nat.add_assoc, Nat.add_right_comm]
      exact ih hwf (by omega) (by omega)

/-! ### The state after a reset that loads -/

theorem afterReset_image {bytes : List Byte} (hlen : bytes.length ≤ Config.romMax) :
    afterReset (.image bytes) =
      { State.reset with mem := Memory.load State.reset.mem Config.progBase.toNat bytes } := if_pos hlen

theorem afterReset_memRead {bytes : List Byte} (hlen : bytes.length ≤ Config.romMax) {k : Nat} (hk : k < bytes.length) :
    (afterReset (.image bytes)).memRead (Config.progBase + BitVec.ofNat 16 k) = bytes[k] := by
  have haddr : (addr12 (Config.progBase + BitVec.ofNat 16 k)).toNat = Config.progBase.toNat + k := by
    have hbase : Config.progBase.toNat = 512 := rfl
    have hmax : bytes.length ≤ 3584 := hlen
    rw [addr12_toNat, BitVec.toNat_add, BitVec.toNat_ofNat, hbase]
    omega
  have hfit : Config.progBase.toNat + bytes.length ≤ Config.memSize := Nat.add_le_add_left hlen 512
  rw [State.memRead, haddr, afterReset_image hlen]
  exact Memory.read_load_inside Memory.wf_nil bytes hfit hk

/-! ### The execute phase and `IR` -/

@[simp] theorem storeRegs_IR (rs : List Nat) (s : State) : (storeRegs rs s).IR = s.IR := by rw [storeRegs_eq]

@[simp] theorem loadRegs_IR (rs : List Nat) (s : State) : (loadRegs rs s).IR = s.IR := by rw [loadRegs_eq]

/-- With SP in its range every instruction completes, and none writes `IR`: only a fetch does (10_state.md R33). -/
theorem exec_completes_keeping_IR (i : Instr) {s : State} (hSP : s.SP.toNat ≤ Config.stackDepth) :
    ∃ t, exec i s = .next t ∧ t.IR = s.IR := by
  cases i with
  | call nnn =>
    rcases execCall_cases nnn s with ⟨-, h⟩ | ⟨_, h⟩ | ⟨hgt, -⟩
    · exact ⟨_, h, rfl⟩
    · exact ⟨_, h, rfl⟩
    · exact absurd hSP (Nat.not_le.mpr hgt)
  | ret =>
    rcases execRet_cases s with ⟨-, h⟩ | ⟨_, -, h⟩ | ⟨hgt, -⟩
    · exact ⟨_, h, rfl⟩
    · exact ⟨_, h, rfl⟩
    · exact absurd hSP (Nat.not_le.mpr hgt)
  | ldVxK x =>
    rcases execLdVxK_cases x s with h | ⟨-, _, -, h⟩
    · exact ⟨_, h, rfl⟩
    · exact ⟨_, h, rfl⟩
  | ldMemVx => exact ⟨_, rfl, storeRegs_IR _ s⟩
  | ldVxMem => exact ⟨_, rfl, loadRegs_IR _ s⟩
  | seByte | sneByte | seReg | sneReg | skp | sknp => exact ⟨_, rfl, State.skipIf_IR s _⟩
  | _ => exact ⟨_, rfl, rfl⟩

/-- A step of a Running block with SP in its range completes, with `IR` the word it fetched. -/
theorem step_completes_with_IR {s : State} (hrun : s.runState = .running) (hSP : s.SP.toNat ≤ Config.stackDepth) :
    ∃ t, step s = .next t ∧ t.IR = s.fetchWord := by
  cases hi : decodeWord s.fetchWord with
  | ok i =>
    rw [step_of_ok hrun hi]
    exact exec_completes_keeping_IR i (s := s.fetch) hSP
  | error r => exact ⟨s.fetch, step_of_unknown hrun hi, rfl⟩

end Sys2Proof.Machine

namespace Sys2Proof

open Machine

/-- Settles O4: the block is Running at 0x200 with an empty stack, so its first step completes with `IR` the word there,
whose two bytes the load took from the image. -/
theorem firstFetchAfterResetIsAtTheEntryPoint : Obligations.FirstFetchAfterResetIsAtTheEntryPoint := by
  intro bytes hlen
  have hreset := afterReset_image hlen
  have hpc : (afterReset (.image bytes)).pc = 0x200 := congrArg State.pc hreset
  have hrun : (afterReset (.image bytes)).runState = .running := congrArg State.runState hreset
  have hSP : (afterReset (.image bytes)).SP = 0 := congrArg State.SP hreset
  obtain ⟨t, hstep, hIR⟩ := step_completes_with_IR hrun (by rw [hSP]; decide)
  have hword : t.IR = (afterReset (.image bytes)).memRead 0x200 ++ (afterReset (.image bytes)).memRead 0x201 := by
    rw [hIR, State.fetchWord, hpc]; rfl
  refine ⟨hpc, t, hstep, hword, ?_⟩
  rintro b0 b1 rest rfl
  have h0 : (afterReset (.image (b0 :: b1 :: rest))).memRead 0x200 = b0 :=
    afterReset_memRead hlen (k := 0) (by simp)
  have h1 : (afterReset (.image (b0 :: b1 :: rest))).memRead 0x201 = b1 :=
    afterReset_memRead hlen (k := 1) (by simp)
  rw [hword, h0, h1]

end Sys2Proof
end

/-! Encoding (30_encoding.md R71, R75, R76, R77): the fields of a word put together from its parts, a word as the parts
its fields are, and the decoder against the encoder. -/
section
namespace Sys2Proof

/-! ### The fields of a word put together from its parts -/

theorem fields_op_nnn (op : Nibble) (nnn : Addr) :
    (fields (op ++ nnn)).op = op ∧ (fields (op ++ nnn)).nnn = nnn :=
  ⟨BitVec.extractLsb'_append_eq_left, BitVec.extractLsb'_append_eq_right⟩

theorem fields_op_x_kk (op : Nibble) (x : RegIdx) (kk : Byte) :
    (fields (op ++ x ++ kk)).op = op ∧ (fields (op ++ x ++ kk)).x = x ∧ (fields (op ++ x ++ kk)).kk = kk := by
  refine ⟨?_, ?_, BitVec.extractLsb'_append_eq_right⟩
  · exact (BitVec.extractLsb'_append_eq_of_le (by decide)).trans BitVec.extractLsb'_append_eq_left
  · exact (BitVec.extractLsb'_append_eq_of_le (by decide)).trans BitVec.extractLsb'_append_eq_right

/-- The two low nibbles of a word are its low byte. -/
theorem op_x_y_n_eq_op_x_kk (op : Nibble) (x y : RegIdx) (n : Nibble) :
    (op ++ x ++ y ++ n : Word) = op ++ x ++ (y ++ n : Byte) := by
  exact BitVec.append_assoc'.symm

theorem fields_op_x_y_n (op : Nibble) (x y : RegIdx) (n : Nibble) :
    (fields (op ++ x ++ y ++ n)).op = op ∧ (fields (op ++ x ++ y ++ n)).x = x ∧ (fields (op ++ x ++ y ++ n)).y = y ∧
      (fields (op ++ x ++ y ++ n)).n = n := by
  obtain ⟨hop, hx, -⟩ := fields_op_x_kk op x (y ++ n)
  rw [← op_x_y_n_eq_op_x_kk] at hop hx
  refine ⟨hop, hx, ?_, BitVec.extractLsb'_append_eq_right⟩
  exact (BitVec.extractLsb'_append_eq_of_le (by decide)).trans BitVec.extractLsb'_append_eq_right

/-! ### A word as its fields -/

theorem op_append_nnn {w : Word} {op : Nibble} (hop : (fields w).op = op) : op ++ (fields w).nnn = w := by
  subst hop
  exact BitVec.extractLsb'_append_extractLsb'

theorem op_append_x_append_kk {w : Word} {op : Nibble} {kk : Byte} (hop : (fields w).op = op)
    (hkk : (fields w).kk = kk) : op ++ (fields w).x ++ kk = w := by
  subst hop hkk
  have hhigh : (fields w).op ++ (fields w).x = w.extractLsb' 8 8 :=
    BitVec.extractLsb'_append_extractLsb'_eq_extractLsb' (start₁ := 8) (len₁ := 4) rfl
  rw [hhigh]
  exact BitVec.extractLsb'_append_extractLsb'

theorem op_append_x_append_y_append_n {w : Word} {op n : Nibble} (hop : (fields w).op = op) (hn : (fields w).n = n) :
    op ++ (fields w).x ++ (fields w).y ++ n = w := by
  subst hn
  have hlow : (fields w).kk = (fields w).y ++ (fields w).n :=
    (BitVec.extractLsb'_append_extractLsb'_eq_extractLsb' (start₁ := 0) (len₁ := 4) rfl).symm
  rw [op_x_y_n_eq_op_x_kk, op_append_x_append_kk hop hlow]

/-! ### Decoding an encoding -/

theorem decodeWord_encode {i : Instr} (hwf : i.wellFormed = true) : decodeWord (encode i) = .ok i := by
  cases i with
  | sys nnn =>
    obtain ⟨hop, hnnn⟩ := fields_op_nnn 0x0#4 nnn
    have hne : nnn ≠ 0x0E0#12 ∧ nnn ≠ 0x0EE#12 := by simpa [Instr.wellFormed] using hwf
    simp [decodeWord, encode, hop, hnnn, decode0, hne]
  | cls | ret => rfl
  | jp nnn | call nnn | ldI nnn | jpV0 nnn =>
    simp [decodeWord, encode, fields_op_nnn]
  | seByte x kk | sneByte x kk | ldByte x kk | addByte x kk | rnd x kk =>
    simp [decodeWord, encode, fields_op_x_kk]
  | skp x | sknp x  =>
    simp [decodeWord, encode, fields_op_x_kk, decodeE]
  | ldVxDT x | ldVxK x | ldDTVx x | ldSTVx x | addIVx x | ldFVx x | ldBVx x | ldMemVx x | ldVxMem x =>
    simp [decodeWord, encode, fields_op_x_kk, decodeF]
  | seReg x y | sneReg x y | drw x y n =>
    simp [decodeWord, encode, fields_op_x_y_n]
  | ldReg x y | orReg x y | andReg x y | xorReg x y | addReg x y | subReg x y | shr x y | subn x y | shl x y =>
    simp [decodeWord, encode, fields_op_x_y_n, decode8]

/-! ### Encoding what a word decodes to -/

theorem encode_decode0 {w : Word} (hop : (fields w).op = 0x0#4) :
    encode (decode0 (fields w)) = w ∧ (decode0 (fields w)).wellFormed = true := by
  have hw := op_append_nnn hop
  unfold decode0
  split
  · next h => rw [h] at hw; exact ⟨hw, rfl⟩
  · next hcls =>
    split
    · next h => rw [h] at hw; exact ⟨hw, rfl⟩
    · next hret => exact ⟨hw, by simp [Instr.wellFormed, hcls, hret]⟩

theorem encode_of_decode8 {w : Word} {i : Instr} (hop : (fields w).op = 0x8#4) (h : decode8 (fields w) = .ok i) :
    encode i = w ∧ i.wellFormed = true := by
  unfold decode8 at h
  split at h <;> cases h <;> next hn => exact ⟨op_append_x_append_y_append_n hop hn, rfl⟩

theorem encode_of_decodeE {w : Word} {i : Instr} (hop : (fields w).op = 0xE#4) (h : decodeE (fields w) = .ok i) :
    encode i = w ∧ i.wellFormed = true := by
  unfold decodeE at h
  split at h <;> cases h <;> next hkk => exact ⟨op_append_x_append_kk hop hkk, rfl⟩

theorem encode_of_decodeF {w : Word} {i : Instr} (hop : (fields w).op = 0xF#4) (h : decodeF (fields w) = .ok i) :
    encode i = w ∧ i.wellFormed = true := by
  unfold decodeF at h
  split at h <;> cases h <;> next hkk => exact ⟨op_append_x_append_kk hop hkk, rfl⟩

/-- Family F is what the decoder's other 15 rows leave. -/
theorem op_eq_F_of_not_mem {op : Nibble} (h : op ∉ [0x0#4, 0x1#4, 0x2#4, 0x3#4, 0x4#4, 0x5#4, 0x6#4, 0x7#4, 0x8#4,
    0x9#4, 0xA#4, 0xB#4, 0xC#4, 0xD#4, 0xE#4]) : op = 0xF#4 := by
  revert op
  decide

theorem encode_of_decodeWord {w : Word} {i : Instr} (h : decodeWord w = .ok i) :
    encode i = w ∧ i.wellFormed = true := by
  unfold decodeWord at h
  dsimp only at h
  split at h
  · next hop => cases h; exact encode_decode0 hop
  · next hop => cases h; exact ⟨op_append_nnn hop, rfl⟩
  · next hop => cases h; exact ⟨op_append_nnn hop, rfl⟩
  · next hop => cases h; exact ⟨op_append_x_append_kk hop rfl, rfl⟩
  · next hop => cases h; exact ⟨op_append_x_append_kk hop rfl, rfl⟩
  · next hop => split at h <;> cases h; next hn => exact ⟨op_append_x_append_y_append_n hop hn, rfl⟩
  · next hop => cases h; exact ⟨op_append_x_append_kk hop rfl, rfl⟩
  · next hop => cases h; exact ⟨op_append_x_append_kk hop rfl, rfl⟩
  · next hop => exact encode_of_decode8 hop h
  · next hop => split at h <;> cases h; next hn => exact ⟨op_append_x_append_y_append_n hop hn, rfl⟩
  · next hop => cases h; exact ⟨op_append_nnn hop, rfl⟩
  · next hop => cases h; exact ⟨op_append_nnn hop, rfl⟩
  · next hop => cases h; exact ⟨op_append_x_append_kk hop rfl, rfl⟩
  · next hop => cases h; exact ⟨op_append_x_append_y_append_n hop rfl, rfl⟩
  · next hop => exact encode_of_decodeE hop h
  · exact encode_of_decodeF (op_eq_F_of_not_mem (by simp_all)) h

/-! ### Bytes -/

@[simp] theorem wordOfBytes_bytes (w : Word) : wordOfBytes (w.extractLsb' 8 8) (w.extractLsb' 0 8) = w :=
  BitVec.extractLsb'_append_extractLsb'

@[simp] theorem bytesOfWord_wordOfBytes (hi lo : Byte) : bytesOfWord (wordOfBytes hi lo) = [hi, lo] := by
  have hhi : (wordOfBytes hi lo).extractLsb' 8 8 = hi := BitVec.extractLsb'_append_eq_left
  have hlo : (wordOfBytes hi lo).extractLsb' 0 8 = lo := BitVec.extractLsb'_append_eq_right
  rw [bytesOfWord, hhi, hlo]

/-- Bytes that decode are two bytes whose word decodes, and the rest. -/
theorem decodeBytes_eq_ok {bytes : List Byte} {i : Instr} {rest : List Byte} (h : decodeBytes bytes = .ok (i, rest)) :
    ∃ hi lo, bytes = hi :: lo :: rest ∧ decodeWord (wordOfBytes hi lo) = .ok i := by
  unfold decodeBytes at h
  split at h
  · next hi lo _ => split at h <;> cases h; next hw => exact ⟨hi, lo, rfl, hw⟩
  · cases h

theorem decodeBytes_of_decodeWord {w : Word} {i : Instr} (h : decodeWord w = .ok i) (rest : List Byte) :
    decodeBytes (bytesOfWord w ++ rest) = .ok (i, rest) := by
  simp [bytesOfWord, decodeBytes, h]

/-! ### The unknown words -/

/-- The group of 30_encoding.md R77 that a name stands for, as a condition on the fields of the word. -/
def Reject.group (f : Fields) : Reject → Prop
  | .truncated => False
  | .unknown5 => f.op = 0x5#4 ∧ f.n ≠ 0x0#4
  | .unknown8 => f.op = 0x8#4 ∧ f.n ∈ [0x8#4, 0x9#4, 0xA#4, 0xB#4, 0xC#4, 0xD#4, 0xF#4]
  | .unknown9 => f.op = 0x9#4 ∧ f.n ≠ 0x0#4
  | .unknownE => f.op = 0xE#4 ∧ f.kk ∉ [0x9E#8, 0xA1#8]
  | .unknownF => f.op = 0xF#4 ∧ f.kk ∉ [0x07#8, 0x0A#8, 0x15#8, 0x18#8, 0x1E#8, 0x29#8, 0x33#8, 0x55#8, 0x65#8]

/-- Family 8's unknown low nibbles are what its nine rows leave. -/
theorem n_mem_unknown8_of_not_mem {n : Nibble}
    (h : n ∉ [0x0#4, 0x1#4, 0x2#4, 0x3#4, 0x4#4, 0x5#4, 0x6#4, 0x7#4, 0xE#4]) :
    n ∈ [0x8#4, 0x9#4, 0xA#4, 0xB#4, 0xC#4, 0xD#4, 0xF#4] := by
  revert n
  decide

theorem decode8_eq_error_iff (f : Fields) (r : Reject) :
    decode8 f = .error r ↔ r = .unknown8 ∧ f.n ∈ [0x8#4, 0x9#4, 0xA#4, 0xB#4, 0xC#4, 0xD#4, 0xF#4] := by
  unfold decode8
  split
  case h_10 =>
    have hn := n_mem_unknown8_of_not_mem (n := f.n) (by simp_all)
    simp only [hn, and_true, Except.error.injEq, eq_comm]
  all_goals next hn => simp [hn]

theorem decodeE_eq_error_iff (f : Fields) (r : Reject) :
    decodeE f = .error r ↔ r = .unknownE ∧ f.kk ∉ [0x9E#8, 0xA1#8] := by
  unfold decodeE
  split
  case h_3 => simp_all [eq_comm (a := Reject.unknownE)]
  all_goals next hkk => simp [hkk]

theorem decodeF_eq_error_iff (f : Fields) (r : Reject) :
    decodeF f = .error r ↔ r = .unknownF ∧
      f.kk ∉ [0x07#8, 0x0A#8, 0x15#8, 0x18#8, 0x1E#8, 0x29#8, 0x33#8, 0x55#8, 0x65#8] := by
  unfold decodeF
  split
  case h_10 => simp_all [eq_comm (a := Reject.unknownF)]
  all_goals next hkk => simp [hkk]

theorem decodeWord_eq_error_iff (w : Word) (r : Reject) : decodeWord w = .error r ↔ r.group (fields w) := by
  unfold decodeWord
  dsimp only
  split
  -- families 5, 9, 8, E and F have words of both kinds; every word of the others is an instruction's
  case h_6 hop => by_cases hn : (fields w).n = 0x0#4 <;> cases r <;> simp [Reject.group, hop, hn]
  case h_10 hop => by_cases hn : (fields w).n = 0x0#4 <;> cases r <;> simp [Reject.group, hop, hn]
  case h_9 hop => cases r <;> simp [Reject.group, hop, decode8_eq_error_iff]
  case h_15 hop => cases r <;> simp [Reject.group, hop, decodeE_eq_error_iff]
  case h_16 =>
    have hop : (fields w).op = 0xF#4 := op_eq_F_of_not_mem (by simp_all)
    cases r <;> simp [Reject.group, hop, decodeF_eq_error_iff]
  all_goals next hop => cases r <;> simp [Reject.group, hop]

/-! ### The statements -/

/-- Settles O6: the word level is `decodeWord_encode`, and the bytes of a word decode to what the word does. -/
theorem decodeOfEncode : Obligations.DecodeOfEncode := by
  intro i hwf
  have hw := decodeWord_encode hwf
  exact ⟨hw, fun rest => decodeBytes_of_decodeWord hw rest⟩

/-- Settles O7: the two bytes make a word whose instruction encodes to that word, and so back to the two bytes. -/
theorem decodedBytesAreTheEncoding : Obligations.DecodedBytesAreTheEncoding := by
  intro bytes i rest h
  obtain ⟨hi, lo, rfl, hw⟩ := decodeBytes_eq_ok h
  obtain ⟨henc, hwf⟩ := encode_of_decodeWord hw
  have hbytes : encodeBytes i = [hi, lo] := by rw [encodeBytes, henc, bytesOfWord_wordOfBytes]
  rw [hbytes]
  exact ⟨rfl, rfl, hwf⟩

/-- Settles O8: each clause is the group of one name. -/
theorem unknownWordsAreThoseOfTheTable : Obligations.UnknownWordsAreThoseOfTheTable := by
  intro w
  have group := decodeWord_eq_error_iff w
  exact ⟨group .unknown5, group .unknown8, group .unknown9, group .unknownE, group .unknownF,
    fun h => (group .truncated).mp h⟩

/-- Settles O5: the decoder is evaluated on the twelve words. -/
theorem specWordsDecode : Obligations.SpecWordsDecode := by
  unfold Obligations.SpecWordsDecode
  decide

end Sys2Proof
end

/-! Frames: how `ChangesOnly` composes, and the frame of each named operation over the state (10_state.md). -/
section
namespace Sys2Proof.Machine

/-! ### Composing frames -/

theorem Elem.Same.trans {e : Elem} {s t u : State} (hst : e.Same s t) (htu : e.Same t u) : e.Same s u := by
  cases e <;> exact Eq.trans htu hst

theorem ChangesOnly.refl (regs : RegIdx → Prop) (stored : Word → Prop) (elems : List Elem) (s : State) :
    ChangesOnly regs stored elems s s where
  regs_same _ _ := rfl
  mem_same _ _ := rfl
  elems_same e _ := by cases e <;> rfl

theorem ChangesOnly.mono {regs regs' : RegIdx → Prop} {stored stored' : Word → Prop} {elems elems' : List Elem}
    {s t : State} (h : ChangesOnly regs stored elems s t) (hr : ∀ r, regs r → regs' r)
    (hm : ∀ a, stored a → stored' a) (he : elems ⊆ elems') : ChangesOnly regs' stored' elems' s t where
  regs_same r hn := h.regs_same r fun hreg => hn (hr r hreg)
  mem_same a hn := h.mem_same a fun hbyte => hn (hm a hbyte)
  elems_same e hn := h.elems_same e fun helem => hn (he helem)

theorem ChangesOnly.mono_elems {regs : RegIdx → Prop} {stored : Word → Prop} {elems elems' : List Elem} {s t : State}
    (h : ChangesOnly regs stored elems s t) (he : elems ⊆ elems') : ChangesOnly regs stored elems' s t :=
  h.mono (fun _ => id) (fun _ => id) he

theorem ChangesOnly.trans {regs : RegIdx → Prop} {stored : Word → Prop} {elems : List Elem} {s t u : State}
    (hst : ChangesOnly regs stored elems s t) (htu : ChangesOnly regs stored elems t u) :
    ChangesOnly regs stored elems s u where
  regs_same r hn := (htu.regs_same r hn).trans (hst.regs_same r hn)
  mem_same a hn := (htu.mem_same a hn).trans (hst.mem_same a hn)
  elems_same e hn := (hst.elems_same e hn).trans (htu.elems_same e hn)

/-- A state with the same registers and the same RAM differs at most in the other elements. -/
theorem ChangesOnly.of_elems {s t : State} {elems : List Elem} (hV : t.V = s.V) (hmem : t.mem = s.mem)
    (he : ∀ e, e ∉ elems → e.Same s t) : ChangesOnly noReg noByte elems s t where
  regs_same r _ := State.reg_congr hV r
  mem_same a _ := State.memRead_congr hmem a
  elems_same := he

/-! ### The frame of each operation -/

theorem State.setFlagThenReg_changesOnly (s : State) (x : RegIdx) (f v : Byte) :
    ChangesOnly (regAndFlag x) noByte [] s (s.setFlagThenReg x f v) := by
  have hflag := State.setReg_changesOnly s 0xF#4 f
  have hdest := State.setReg_changesOnly (s.setReg 0xF#4 f) x v
  exact (hflag.mono (fun _ => .inr) (fun _ => id) (List.Subset.refl _)).trans
    (hdest.mono (fun _ => .inl) (fun _ => id) (List.Subset.refl _))

theorem State.setI_changesOnly (s : State) (a : Word) : ChangesOnly noReg noByte [.I] s (s.setI a) :=
  .of_elems rfl rfl fun e he => by
    cases e with
    | I => simp at he
    | _ => rfl

theorem State.skipIf_changesOnly (s : State) (c : Bool) : ChangesOnly noReg noByte [.pc] s (s.skipIf c) := by
  cases c with
  | true => exact State.setPc_changesOnly s _
  | false => exact .refl ..

theorem State.raiseFatal_changesOnly (s : State) (c : HaltCause) :
    ChangesOnly noReg noByte [.runState, .haltCause] s (s.raiseFatal c) :=
  .of_elems rfl rfl fun e he => by
    cases e with
    | runState | haltCause => simp at he
    | _ => rfl

/-- CALL's push and its jump. -/
theorem State.pushPc_setPc_changesOnly (s : State) (h : s.SP.toNat < Config.stackDepth) (a : Word) :
    ChangesOnly noReg noByte [.pc, .SP, .stack] s ((s.pushPc h).setPc a) :=
  .of_elems rfl rfl fun e he => by
    cases e with
    | pc | SP | stack => simp at he
    | _ => rfl

theorem State.popPc_changesOnly (s : State) (h : s.SP.toNat - 1 < Config.stackDepth) :
    ChangesOnly noReg noByte [.pc, .SP] s (s.popPc h) :=
  .of_elems rfl rfl fun e he => by
    cases e with
    | pc | SP => simp at he
    | _ => rfl

theorem State.fetch_changesOnly (s : State) : ChangesOnly noReg noByte [.pc, .IR] s s.fetch :=
  .of_elems rfl rfl fun e he => by
    cases e with
    | pc | IR => simp at he
    | _ => rfl

theorem State.sampleAndRewind_changesOnly (s : State) :
    ChangesOnly noReg noByte [.kwPhase, .kwSnap, .pc] s s.sampleAndRewind :=
  .of_elems rfl rfl fun e he => by
    cases e with
    | kwPhase | kwSnap | pc => simp at he
    | _ => rfl

theorem State.drawRandom_changesOnly (s : State) : ChangesOnly noReg noByte [.draws] s s.drawRandom.2 :=
  .of_elems rfl rfl fun e he => by
    cases e with
    | draws => simp at he
    | _ => rfl

/-- The host's write of the keypad. -/
theorem State.keyIn_changesOnly (s : State) (keys : Keys) : ChangesOnly noReg noByte [.key] s (s.keyIn keys) :=
  .of_elems rfl rfl fun e he => by
    cases e with
    | key => simp at he
    | _ => rfl

/-- The end of a key wait: the register and the latch. -/
theorem State.takeKey_changesOnly (s : State) (x : RegIdx) (k : Byte) :
    ChangesOnly (onlyReg x) noByte [.kwPhase] s { s.setReg x k with kwPhase := .idle } where
  regs_same _ hr := State.reg_setReg_ne s k hr
  mem_same _ _ := rfl
  elems_same e he := by
    cases e with
    | kwPhase => simp at he
    | _ => rfl

/-- CXKK: a draw, then a register write. -/
theorem State.drawRandom_setReg_changesOnly (s : State) (x : RegIdx) (v : Byte) :
    ChangesOnly (onlyReg x) noByte [.draws] s (s.drawRandom.2.setReg x v) :=
  (s.drawRandom_changesOnly.mono (fun _ => False.elim) (fun _ => id) (List.Subset.refl _)).trans
    ((State.setReg_changesOnly _ x v).mono_elems (List.nil_subset _))

/-- DXYN: VF, the pixels and the redraw flag. -/
theorem State.drawn_changesOnly (s : State) (v : Byte) (p : PixelBuffer) :
    ChangesOnly (onlyReg 0xF#4) noByte [.pix, .needsRedraw] s
      { s.setReg 0xF#4 v with pix := p, needsRedraw := true } :=
  ((State.setReg_changesOnly s 0xF#4 v).mono_elems (List.nil_subset _)).trans
    ((State.redrawnPix_changesOnly _ p).mono (fun _ => False.elim) (fun _ => id) (List.Subset.refl _))

theorem State.memWrite_changesOnly (s : State) (a : Word) (v : Byte) :
    ChangesOnly noReg (fun b => addr12 b = addr12 a) [] s (s.memWrite a v) where
  regs_same _ _ := rfl
  mem_same _ hb := State.memRead_memWrite_ne s v hb
  elems_same e _ := by cases e <;> rfl

theorem storeRegs_changesOnly (k : Nat) (s : State) :
    ChangesOnly noReg (bytesFrom s.I k) [] s (storeRegs (List.range k) s) where
  regs_same r _ := State.reg_congr (by rw [storeRegs_eq]) r
  mem_same a ha := storeRegs_memRead_ne _ s fun r hr e => ha ⟨r, List.mem_range.mp hr, e⟩
  elems_same e _ := by rw [storeRegs_eq]; cases e <;> rfl

theorem loadRegs_changesOnly (x : RegIdx) (s : State) :
    ChangesOnly (fun r => r.toNat ≤ x.toNat) noByte [] s (loadRegs (List.range (x.toNat + 1)) s) where
  regs_same r hr := loadRegs_reg_ne _ s fun q hq e => by
    have hq := List.mem_range.mp hq
    have hrq : r.toNat = q % 16 := by rw [e, BitVec.toNat_ofNat]
    have := x.isLt
    omega
  mem_same a _ := State.memRead_congr (by rw [loadRegs_eq]) a
  elems_same e _ := by rw [loadRegs_eq]; cases e <;> rfl

/-- FX33: the three digits. -/
theorem execLdBVx_changesOnly {x : RegIdx} {s t : State} (h : execLdBVx x s = .next t) :
    ChangesOnly noReg (bytesFrom s.I 3) [] s t := by
  have digit (u : State) (k : Nat) (hk : k < 3) (v : Byte) :
      ChangesOnly noReg (bytesFrom s.I 3) [] u (u.memWrite (indexAddr s.I k) v) :=
    (State.memWrite_changesOnly u _ v).mono (fun _ => id) (fun _ e => ⟨k, hk, e.trans (addr12_indexAddr _ _)⟩)
      (List.Subset.refl _)
  cases h
  exact ((digit s 0 (by decide) _).trans (digit _ 1 (by decide) _)).trans (digit _ 2 (by decide) _)

end Sys2Proof.Machine
end

/-! Arithmetic and logic (42_alu.md R144, R148 to R153): the flag writers, the copy and the random byte. -/
section
namespace Sys2Proof.Machine

theorem flagByte_decide (p : Prop) [Decidable p] : flagByte (decide p) = if p then 1 else 0 := by
  simp [flagByte]

theorem toNat_flagByte (b : Bool) : (flagByte b).toNat = b.toNat := by cases b <;> rfl

theorem toNat_shrFlag (a : Byte) : (shrFlag a).toNat = a.toNat % 2 := by
  rw [shrFlag, toNat_flagByte, BitVec.getLsbD, Nat.testBit_zero]
  rcases Nat.mod_two_eq_zero_or_one a.toNat with h | h <;> simp [h]

theorem toNat_shlFlag (a : Byte) : (shlFlag a).toNat = a.toNat / 128 := by
  rw [shlFlag, toNat_flagByte, BitVec.getLsbD, Nat.testBit_eq_decide_div_mod_eq]
  have hbit : a.toNat / 128 = 0 ∨ a.toNat / 128 = 1 := by have := a.isLt; omega
  rcases hbit with h | h <;> simp [h]

/-- The flag of a flag writer is readable unless VF is the destination. -/
theorem State.flag_setFlagThenReg (s : State) {x : RegIdx} (f v : Byte) (hx : x ≠ 0xF#4) :
    (s.setFlagThenReg x f v).reg 0xF#4 = f := by
  rw [State.reg_setFlagThenReg, if_neg hx.symm, if_pos rfl]

@[simp] theorem State.dest_setFlagThenReg (s : State) (x : RegIdx) (f v : Byte) : (s.setFlagThenReg x f v).reg x = v :=
  State.reg_setReg_self _ x v

end Sys2Proof.Machine

namespace Sys2Proof

open Machine

/-- Settles O14: one register write, of the other register's value. -/
theorem loadRegisterCopies : Obligations.LoadRegisterCopies := by
  intro x y s
  exact ⟨_, rfl, State.reg_setReg_self s x _, State.setReg_changesOnly s x _⟩

/-- Settles O16: both writes take the sources as they stood before. -/
theorem addRegistersSetsCarryThenSum : Obligations.AddRegistersSetsCarryThenSum := by
  intro x y s
  refine ⟨_, rfl, ?_, fun hx => ?_, State.setFlagThenReg_changesOnly s x _ _⟩
  · rw [State.dest_setFlagThenReg, BitVec.toNat_add]
  · rw [State.flag_setFlagThenReg s _ _ hx]
    exact flagByte_decide _

/-- Settles O17: SUB and SUBN differ in which operand is the minuend. -/
theorem subtractionsSetNoBorrowThenDifference : Obligations.SubtractionsSetNoBorrowThenDifference := by
  have difference (a b : Byte) : (a - b).toNat = (a.toNat + 256 - b.toNat) % 256 := by
    rw [BitVec.toNat_sub]; have := b.isLt; omega
  intro x y s
  refine ⟨⟨_, rfl, ?_, fun hx => ?_, State.setFlagThenReg_changesOnly s x _ _⟩,
    ⟨_, rfl, ?_, fun hx => ?_, State.setFlagThenReg_changesOnly s x _ _⟩⟩
  · rw [State.dest_setFlagThenReg, difference]
  · rw [State.flag_setFlagThenReg s _ _ hx]
    exact flagByte_decide _
  · rw [State.dest_setFlagThenReg, difference]
  · rw [State.flag_setFlagThenReg s _ _ hx]
    exact flagByte_decide _

/-- Settles O18: the value is halved or doubled, and the flag is the bit that halving or doubling loses. -/
theorem shiftsMoveOneBitIntoTheFlag : Obligations.ShiftsMoveOneBitIntoTheFlag := by
  intro x y s
  refine ⟨⟨_, rfl, ?_, fun hx => ?_, State.setFlagThenReg_changesOnly s x _ _⟩,
    ⟨_, rfl, ?_, fun hx => ?_, State.setFlagThenReg_changesOnly s x _ _⟩⟩
  · rw [State.dest_setFlagThenReg, BitVec.toNat_ushiftRight, Nat.shiftRight_one]
  · rw [State.flag_setFlagThenReg s _ _ hx, toNat_shrFlag]
  · rw [State.dest_setFlagThenReg, BitVec.toNat_shiftLeft, Nat.shiftLeft_eq]
  · rw [State.flag_setFlagThenReg s _ _ hx, toNat_shlFlag]

/-- Settles O19: the destination is the draw of the old counter, masked bit by bit. -/
theorem randomIsAMaskedFreshDraw : Obligations.RandomIsAMaskedFreshDraw := by
  intro x kk s
  refine ⟨_, rfl, fun k => ?_, rfl, State.drawRandom_setReg_changesOnly s x _⟩
  rw [State.reg_setReg_self, BitVec.getLsbD_and, State.drawRandom_fst]

end Sys2Proof
end

/-! Control transfer, skips and the index register (40_control.md, 41_skips.md, 43_memory_index.md). -/
section
namespace Sys2Proof.Machine

theorem toNat_jumpV0Target (nnn : Addr) (v : Byte) : (jumpV0Target nnn v).toNat = nnn.toNat + v.toNat := by
  rw [jumpV0Target, BitVec.toNat_add, addrOf_toNat, BitVec.toNat_setWidth]
  have := nnn.isLt
  have := v.isLt
  omega

theorem toNat_addr12_add_two (a : Word) : (addr12 (a + 2#16)).toNat = (a.toNat + 2) % 4096 := by
  rw [addr12_toNat, BitVec.toNat_add]
  show (a.toNat + 2) % 65536 % 4096 = _
  omega

/-- A skip taken moves `pc` on by one instruction. -/
theorem State.toNat_skipIf_pc {s : State} {c : Bool} (h : c = true) :
    (s.skipIf c).pc.toNat = (s.pc.toNat + 2) % 4096 := by
  rw [State.skipIf_pc, if_pos h, toNat_addr12_add_two]

theorem State.skipIf_pc_of_false {s : State} {c : Bool} (h : c = false) : (s.skipIf c).pc = s.pc := by
  rw [State.skipIf_pc, h]; rfl

theorem keyIndex_eq (v : Byte) : keyIndex v = v.toNat % 16 := by
  rw [keyIndex, BitVec.toNat_and]
  exact Nat.and_two_pow_sub_one_eq_mod v.toNat 4

theorem glyphAddr_toNat (v : Byte) : (glyphAddr v).toNat = 5 * v.toNat := by
  rw [glyphAddr, BitVec.toNat_ofNat, fontBase]
  have := v.isLt
  omega

/-! ### CALL and RET on the stack -/

theorem execCall_of_room (nnn : Addr) {s : State} (h : s.SP.toNat < Config.stackDepth) :
    execCall nnn s = .next ((s.pushPc h).setPc (addrOf nnn)) := by
  rcases execCall_cases nnn s with ⟨h16, -⟩ | ⟨_, he⟩ | ⟨hgt, -⟩
  · rw [h16] at h; exact absurd h (by decide)
  · exact he
  · exact absurd h (by omega)

theorem execRet_of_entry {s : State} (h0 : 0 < s.SP.toNat) (h : s.SP.toNat - 1 < Config.stackDepth) :
    execRet s = .next (s.popPc h) := by
  rcases execRet_cases s with ⟨hz, -⟩ | ⟨_, -, he⟩ | ⟨hgt, -⟩
  · rw [hz] at h0; exact absurd h0 (by decide)
  · exact he
  · simp only [Config.stackDepth] at h hgt; omega

theorem execCall_of_full (nnn : Addr) {s : State} (h : s.SP = 16#8) :
    execCall nnn s = .next (s.raiseFatal .stackOverflow) := if_pos h

theorem execRet_of_empty {s : State} (h : s.SP = 0#8) : execRet s = .next (s.raiseFatal .stackUnderflow) := if_pos h

theorem State.toNat_pushPc_SP (s : State) (h : s.SP.toNat < Config.stackDepth) :
    (s.pushPc h).SP.toNat = s.SP.toNat + 1 := by
  rw [State.pushPc_SP, BitVec.toNat_add]
  simp only [Config.stackDepth] at h
  exact Nat.mod_eq_of_lt (show s.SP.toNat + 1 < 256 by omega)

theorem State.toNat_popPc_SP (s : State) (h0 : 0 < s.SP.toNat) (h : s.SP.toNat - 1 < Config.stackDepth) :
    (s.popPc h).SP.toNat = s.SP.toNat - 1 := by
  rw [State.popPc_SP, BitVec.toNat_sub]
  simp only [Config.stackDepth] at h
  show (256 - 1 + s.SP.toNat) % 256 = _
  omega

end Sys2Proof.Machine

namespace Sys2Proof

open Machine

/-- Settles O20: the meaning of SYS is the state it is given. -/
theorem sysChangesNothing : Obligations.SysChangesNothing := fun _ _ => rfl

/-- Settles O22: the target is computed without overflow in 16 bits and reduced by `setPc`. -/
theorem indirectJumpAddsRegisterZero : Obligations.IndirectJumpAddsRegisterZero := by
  intro nnn s
  refine ⟨_, rfl, ?_, State.setPc_changesOnly s _⟩
  rw [State.setPc_pc, addr12_toNat, toNat_jumpV0Target]

/-- Settles O23: with room CALL is the push and the jump. -/
theorem callPushesTheReturnAddress : Obligations.CallPushesTheReturnAddress := by
  intro nnn s h
  refine ⟨_, execCall_of_room nnn h, ?_, State.toNat_pushPc_SP s h, ?_, fun j hj hne => ?_,
    State.pushPc_setPc_changesOnly s h _⟩
  · rw [State.setPc_pc, addr12_addrOf, addrOf_toNat]
  · exact Vector.getElem_set_self h
  · exact Vector.getElem_set_ne h hj hne.symm

/-- Settles O24: with an entry RET is the pop. -/
theorem returnPopsTheNewestEntry : Obligations.ReturnPopsTheNewestEntry := by
  intro s h0 h16
  have h : s.SP.toNat - 1 < Config.stackDepth := show s.SP.toNat - 1 < 16 by omega
  refine ⟨_, execRet_of_entry h0 h, ?_, State.toNat_popPc_SP s h0 h, State.popPc_changesOnly s h⟩
  rw [State.popPc_pc, addr12_toNat]

/-- Settles O25: both stack errors are the one fatal entry, which writes the run state and the cause. -/
theorem stackErrorsAreFatalAndChangeNothingElse : Obligations.StackErrorsAreFatalAndChangeNothingElse := by
  intro nnn s
  exact ⟨fun h => ⟨_, execCall_of_full nnn h, rfl, rfl, State.raiseFatal_changesOnly s _⟩,
    fun h => ⟨_, execRet_of_empty h, rfl, rfl, State.raiseFatal_changesOnly s _⟩⟩

/-- Settles O26: the call put `pc` in the entry that the return's SP names, and the return moves no entry. -/
theorem returnComesBackToAfterTheCall : Obligations.ReturnComesBackToAfterTheCall := by
  intro nnn s t u hSP hpc hcall hu hstack
  have ht := (execCall_of_room nnn hSP).symm.trans hcall
  cases ht
  have hdepth : u.SP.toNat = s.SP.toNat + 1 := by rw [hu]; exact State.toNat_pushPc_SP s hSP
  have hroom : u.SP.toNat - 1 < Config.stackDepth := by rw [hdepth]; exact hSP
  refine ⟨_, execRet_of_entry (by omega) hroom, ?_, ?_, fun j hj hlt => ?_⟩
  · have hentry : u.stack[u.SP.toNat - 1] = s.pc := by
      simp [hstack, hdepth]
    rw [State.popPc_pc, hentry, addr12_of_lt hpc]
  · apply BitVec.eq_of_toNat_eq
    rw [State.toNat_popPc_SP u (by omega) hroom, hdepth, Nat.add_sub_cancel]
  · rw [State.popPc_stack, hstack]
    exact Vector.getElem_set_ne hSP hj (by omega)

/-- Settles O27: each of the four is a skip on its condition. -/
theorem registerSkipsMoveOverOneInstruction : Obligations.RegisterSkipsMoveOverOneInstruction := by
  intro x y kk s
  exact ⟨
    ⟨_, rfl, State.skipIf_changesOnly s _, fun h => State.toNat_skipIf_pc (beq_iff_eq.mpr h),
      fun h => State.skipIf_pc_of_false (beq_eq_false_iff_ne.mpr h)⟩,
    ⟨_, rfl, State.skipIf_changesOnly s _, fun h => State.toNat_skipIf_pc (bne_iff_ne.mpr h),
      fun h => State.skipIf_pc_of_false (bne_eq_false_iff_eq.mpr h)⟩,
    ⟨_, rfl, State.skipIf_changesOnly s _, fun h => State.toNat_skipIf_pc (beq_iff_eq.mpr h),
      fun h => State.skipIf_pc_of_false (beq_eq_false_iff_ne.mpr h)⟩,
    ⟨_, rfl, State.skipIf_changesOnly s _, fun h => State.toNat_skipIf_pc (bne_iff_ne.mpr h),
      fun h => State.skipIf_pc_of_false (bne_eq_false_iff_eq.mpr h)⟩⟩

/-- Settles O28: the key tested is `keyIndex`, the value modulo 16. -/
theorem keySkipsTestTheLowFourBits : Obligations.KeySkipsTestTheLowFourBits := by
  intro x s
  rw [← keyIndex_eq]
  exact ⟨
    ⟨_, rfl, State.skipIf_changesOnly s _, State.toNat_skipIf_pc, State.skipIf_pc_of_false⟩,
    ⟨_, rfl, State.skipIf_changesOnly s _, fun h => State.toNat_skipIf_pc (congrArg not h),
      fun h => State.skipIf_pc_of_false (congrArg not h)⟩⟩

/-- Settles O29: each is one write of `I`; the glyph addresses stay below 4096, so `setI` keeps them. -/
theorem indexRegisterWrites : Obligations.IndexRegisterWrites := by
  intro nnn x s
  refine ⟨⟨_, rfl, ?_, State.setI_changesOnly s _⟩, ⟨_, rfl, ?_, State.setI_changesOnly s _⟩,
    ⟨_, rfl, ?_, State.setI_changesOnly s _⟩⟩
  · rw [State.setI_I, addr12_addrOf, addrOf_toNat]
  · rw [State.setI_I, addr12_toNat, BitVec.toNat_add, BitVec.toNat_setWidth]
    have := (s.reg x).isLt
    omega
  · rw [State.setI_I, addr12_toNat, glyphAddr_toNat]
    have := (s.reg x).isLt
    omega

/-- Settles O40: a register write of DT, which it does not change. -/
theorem delayTimerIsReadIntoTheRegister : Obligations.DelayTimerIsReadIntoTheRegister := by
  intro x y s
  exact ⟨_, rfl, State.reg_setReg_self s x _, State.setReg_changesOnly s x _, _, rfl, State.reg_setReg_self _ y _⟩

end Sys2Proof
end

/-! Memory, the fetch and reset (20_memory.md, 43_memory_index.md, 30_encoding.md R80, R81, 70_reset_and_hazards.md R270
to R272): equal contents are equal lists, the block transfers, the bytes of the fetched word, and the reset contents. -/
section
namespace Sys2Proof.Machine

/-! ### Canonical memories -/

namespace Memory

/-- The first byte of a canonical list is inside the RAM and differs from the reset contents. -/
theorem read_head_ne_initialByte {lo a : Nat} {v : Byte} {m : Memory} (hm : wfFrom lo ((a, v) :: m) = true) :
    a < Config.memSize ∧ read ((a, v) :: m) a ≠ initialByte a := by
  obtain ⟨-, ha, hv, -⟩ := wfFrom_cons.mp hm
  exact ⟨ha, by simpa using hv⟩

/-- A canonical list that reads like another one does not begin before it. -/
theorem head_le_of_read_eq {lo lo' a b : Nat} {v w : Byte} {m m' : Memory} (hm : wfFrom lo ((a, v) :: m) = true)
    (hm' : wfFrom lo' ((b, w) :: m') = true)
    (hread : ∀ c, c < Config.memSize → read ((a, v) :: m) c = read ((b, w) :: m') c) : b ≤ a := by
  by_contra hlt
  obtain ⟨ha, hne⟩ := read_head_ne_initialByte hm
  have hfrom : wfFrom b ((b, w) :: m') = true := wfFrom_cons.mpr ⟨le_rfl, (wfFrom_cons.mp hm').2⟩
  exact hne ((hread a ha).trans (read_of_wfFrom hfrom (Nat.lt_of_not_le hlt)))

theorem eq_of_read_eq {lo : Nat} {m m' : Memory} (hm : m.wfFrom lo = true) (hm' : m'.wfFrom lo = true)
    (hread : ∀ a, a < Config.memSize → m.read a = m'.read a) : m = m' := by
  induction m generalizing lo m' with
  | nil =>
    cases m' with
    | nil => rfl
    | cons c m' =>
      obtain ⟨ha, hne⟩ := read_head_ne_initialByte hm'
      exact absurd (hread _ ha).symm hne
  | cons c m ih =>
    cases m' with
    | nil =>
      obtain ⟨ha, hne⟩ := read_head_ne_initialByte hm
      exact absurd (hread _ ha) hne
    | cons d m' =>
      obtain ⟨a, v⟩ := c
      obtain ⟨b, w⟩ := d
      have hab : a = b := Nat.le_antisymm (head_le_of_read_eq hm' hm fun c hc => (hread c hc).symm)
        (head_le_of_read_eq hm hm' hread)
      subst hab
      obtain ⟨-, ha, -, htail⟩ := wfFrom_cons.mp hm
      obtain ⟨-, -, -, htail'⟩ := wfFrom_cons.mp hm'
      have hvw : v = w := by simpa using hread a ha
      have hrest : m = m' := ih htail htail' fun c hc => by
        by_cases hca : c = a
        · subst hca
          rw [read_of_wfFrom htail (Nat.lt_succ_self c), read_of_wfFrom htail' (Nat.lt_succ_self c)]
        · simpa [hca] using hread c hc
      rw [hvw, hrest]

end Memory

/-! ### Bytes of memory by their number -/

theorem State.memRead_eq (s : State) (a : Word) : s.memRead a = s.mem.read (a.toNat % 4096) := by
  rw [State.memRead, addr12_toNat]

theorem State.memRead_indexAddr (s : State) (k : Nat) :
    s.memRead (indexAddr s.I k) = s.mem.read ((s.I.toNat + k) % 4096) := by
  rw [State.memRead, addr12_indexAddr, indexAddr_toNat]

theorem toNat_add_one_mod (a : Word) : (a + 1#16).toNat % 4096 = (a.toNat + 1) % 4096 := by
  rw [BitVec.toNat_add]
  show (a.toNat + 1) % 65536 % 4096 = _
  omega

/-! ### FX55, FX65 and FX33 -/

/-- A register within the transfer is stored in its byte. -/
theorem storeRegs_memRead_reg {x r : RegIdx} {s : State} (hm : s.mem.wf = true) (hr : r.toNat ≤ x.toNat) :
    (storeRegs (List.range (x.toNat + 1)) s).memRead (indexAddr s.I r.toNat) = s.reg r := by
  have hsmall : ∀ q ∈ List.range (x.toNat + 1), q < 4096 := fun q hq => by
    have := List.mem_range.mp hq
    have := x.isLt
    omega
  rw [storeRegs_memRead_mem _ hm List.nodup_range hsmall (List.mem_range.mpr (Nat.lt_succ_of_le hr)),
    BitVec.ofNat_toNat, BitVec.setWidth_eq]

/-- A register within the transfer is loaded from its byte. -/
theorem loadRegs_reg {x r : RegIdx} (s : State) (hr : r.toNat ≤ x.toNat) :
    (loadRegs (List.range (x.toNat + 1)) s).reg r = s.memRead (indexAddr s.I r.toNat) := by
  have hreg : ∀ q ∈ List.range (x.toNat + 1), q < 16 := fun q hq => by
    have := List.mem_range.mp hq
    have := x.isLt
    omega
  have h := loadRegs_reg_mem _ s List.nodup_range hreg (List.mem_range.mpr (Nat.lt_succ_of_le hr))
  rwa [BitVec.ofNat_toNat, BitVec.setWidth_eq] at h

/-- Three bytes written from `I` on read as written. -/
theorem State.memRead_three_memWrites {s : State} (hm : s.mem.wf = true) (v0 v1 v2 : Byte) :
    let t := ((s.memWrite (indexAddr s.I 0) v0).memWrite (indexAddr s.I 1) v1).memWrite (indexAddr s.I 2) v2
    t.memRead (indexAddr s.I 0) = v0 ∧ t.memRead (indexAddr s.I 1) = v1 ∧ t.memRead (indexAddr s.I 2) = v2 := by
  have apart {j k : Nat} (hj : j < 4096) (hk : k < 4096) (hne : j ≠ k) :
      addr12 (indexAddr s.I j) ≠ addr12 (indexAddr s.I k) := by
    rw [addr12_indexAddr, addr12_indexAddr]
    exact fun e => hne ((indexAddr_inj s.I hj hk).mp e)
  have hm0 := State.memWrite_wf hm (indexAddr s.I 0) v0
  have hm1 := State.memWrite_wf hm0 (indexAddr s.I 1) v1
  refine ⟨?_, ?_, State.memRead_memWrite_self _ hm1 v2 rfl⟩
  · rw [State.memRead_memWrite_ne _ _ (apart (by decide) (by decide) (by decide)),
      State.memRead_memWrite_ne _ _ (apart (by decide) (by decide) (by decide)),
      State.memRead_memWrite_self s hm v0 rfl]
  · rw [State.memRead_memWrite_ne _ _ (apart (by decide) (by decide) (by decide)),
      State.memRead_memWrite_self _ hm0 v1 rfl]

/-- The three digits are below 10 and make up the value. -/
theorem digits_spec (v : Byte) :
    (hundreds v).toNat < 10 ∧ (tens v).toNat < 10 ∧ (ones v).toNat < 10 ∧
      100 * (hundreds v).toNat + 10 * (tens v).toNat + (ones v).toNat = v.toNat := by
  have := v.isLt
  simp only [hundreds, tens, ones, BitVec.toNat_ofNat]
  omega

/-! ### The fetch -/

theorem State.fetchWord_high (s : State) : s.fetchWord.extractLsb' 8 8 = s.memRead s.pc :=
  BitVec.extractLsb'_append_eq_left

theorem State.fetchWord_low (s : State) : s.fetchWord.extractLsb' 0 8 = s.memRead (s.pc + 1#16) :=
  BitVec.extractLsb'_append_eq_right

theorem State.toNat_fetch_pc (s : State) : s.fetch.pc.toNat = (s.pc.toNat + 2) % 4096 := toNat_addr12_add_two s.pc

/-- Without an unknown word there is no report. -/
theorem State.unknownReport_of_ok {s : State} {i : Instr} (h : decodeWord s.fetchWord = .ok i) :
    s.unknownReport = none := by
  unfold State.unknownReport
  rw [h]
  cases s.runState <;> rfl

theorem State.unknownReport_of_not_running {s : State} (h : s.runState ≠ .running) : s.unknownReport = none := by
  unfold State.unknownReport
  cases hr : s.runState with
  | running => exact absurd hr h
  | paused | halted => rfl

theorem State.unknownReport_of_unknown {s : State} {r : Reject} (hr : s.runState = .running)
    (h : decodeWord s.fetchWord = .error r) :
    s.unknownReport = some { word := s.fetchWord, addr := s.pc.setWidth 12 } := by
  unfold State.unknownReport
  rw [hr, h]

/-! ### Reset -/

theorem fontBytes_length : fontBytes.length = 80 := rfl

/-- Past the font the reset contents are zeros. -/
theorem initialByte_of_ge {a : Nat} (h : 80 ≤ a) : initialByte a = 0 := by
  have hbase : fontBase ≤ a := Nat.zero_le a
  rw [initialByte, if_pos hbase]
  exact List.getD_eq_default _ _ (by rw [fontBytes_length]; exact h)

theorem afterReset_unreadable :
    afterReset .unreadable = { State.reset with runState := .halted, haltCause := .initFailure } := rfl

theorem afterReset_oversized {bytes : List Byte} (h : Config.romMax < bytes.length) :
    afterReset (.image bytes) = { State.reset with runState := .halted, haltCause := .initFailure } :=
  if_neg (Nat.not_le.mpr h)

/-- Outside a loaded image memory is as after the reset with an empty image. -/
theorem afterReset_memRead_outside {bytes : List Byte} (hlen : bytes.length ≤ Config.romMax) {a : Word}
    (ha : a.toNat < Config.memSize) (hout : a.toNat < 0x200 ∨ 0x200 + bytes.length ≤ a.toNat) :
    (afterReset (.image bytes)).memRead a = State.reset.memRead a := by
  rw [State.memRead, State.memRead, addr12_of_lt ha, afterReset_image hlen]
  exact Memory.read_load_outside _ bytes hout

end Sys2Proof.Machine

namespace Sys2Proof

open Machine

/-- Settles O34: the two lists are compared head by head, a head being the first address that does not read as after
reset. -/
theorem canonicalMemoriesAreEqualByContents : Obligations.CanonicalMemoriesAreEqualByContents :=
  fun _ _ hm hm' hread => Memory.eq_of_read_eq hm hm' hread

/-- Settles O33: `addr12` decides which addresses are the written one. -/
theorem memoryIsReadAsWritten : Obligations.MemoryIsReadAsWritten := by
  intro s a v hm
  refine ⟨State.memWrite_wf hm a v, fun b hb => ?_, fun b hb => ?_, ?_, rfl⟩
  · exact State.memRead_memWrite_self s hm v ((addr12_eq_iff b a).mpr hb)
  · exact State.memRead_memWrite_ne s v fun e => hb ((addr12_eq_iff b a).mp e)
  · exact (State.memWrite_changesOnly s a v).mono (fun _ => id) (fun b => (addr12_eq_iff b a).mp) (List.Subset.refl _)

/-- Settles O30: FX55 is the store loop over registers 0 to x. -/
theorem storeBlockWritesTheRegisters : Obligations.StoreBlockWritesTheRegisters := by
  intro x s hm
  exact ⟨_, rfl, fun r hr => storeRegs_memRead_reg hm hr, storeRegs_changesOnly _ s⟩

/-- Settles O31: FX65 is the load loop over registers 0 to x. -/
theorem loadBlockReadsTheRegisters : Obligations.LoadBlockReadsTheRegisters := by
  intro x s
  refine ⟨_, rfl, fun r hr => ?_, loadRegs_changesOnly x s⟩
  rw [loadRegs_reg s hr, State.memRead_indexAddr]

/-- Settles O32: the three bytes read as the three digits. -/
theorem bcdStoresTheThreeDigits : Obligations.BcdStoresTheThreeDigits := by
  intro x s hm
  refine ⟨_, rfl, ?_⟩
  obtain ⟨h0, h1, h2⟩ :=
    State.memRead_three_memWrites hm (hundreds (s.reg x)) (tens (s.reg x)) (ones (s.reg x))
  rw [h0, h1, h2]
  obtain ⟨hh, ht, ho, hsum⟩ := digits_spec (s.reg x)
  exact ⟨hh, ht, ho, hsum, execLdBVx_changesOnly (x := x) rfl⟩

/-- Settles O35: the halves of the fetched word are the bytes at `pc` and `pc + 1`, which FX55 stored or left alone. -/
theorem storesAreSeenByTheNextFetch : Obligations.StoresAreSeenByTheNextFetch := by
  intro x s t hm h
  cases h
  have hpc : (storeRegs (List.range (x.toNat + 1)) s).pc = s.pc := by rw [storeRegs_eq]
  have stored {r : RegIdx} {a : Word} (hr : r.toNat ≤ x.toNat) (ha : indexAddr s.I r.toNat = addr12 a) :
      (storeRegs (List.range (x.toNat + 1)) s).memRead a = s.reg r := by
    rw [← State.memRead_addr12, ← ha, storeRegs_memRead_reg hm hr]
  have kept := (storeRegs_changesOnly (x.toNat + 1) s).mem_same
  simp only [State.fetchWord_high, State.fetchWord_low, hpc]
  exact ⟨fun r => stored, fun r => stored, kept s.pc, kept (s.pc + 1#16)⟩

/-- Settles O10: the two bytes of the word, by their numbers modulo 4096. -/
theorem fetchIsBigEndianAtEveryAddress : Obligations.FetchIsBigEndianAtEveryAddress := by
  intro s
  constructor
  · rw [State.fetchWord_high, State.memRead_eq]
  · rw [State.fetchWord_low, State.memRead_eq, toNat_add_one_mod]

/-- Settles O9: two bytes decode as their word does. -/
theorem stepRunsDecodedInstruction : Obligations.StepRunsDecodedInstruction := by
  intro s i hrun h
  obtain ⟨hi, lo, hbytes, hw⟩ := decodeBytes_eq_ok h
  cases hbytes
  exact ⟨step_of_ok hrun hw, rfl, State.toNat_fetch_pc s,
    s.fetch_changesOnly.mono_elems (by decide)⟩

/-- Settles O11: the step is the fetch alone. -/
theorem unknownWordIsReportedAndIgnored : Obligations.UnknownWordIsReportedAndIgnored := by
  intro s
  refine ⟨fun r hrun h => ?_, fun i => State.unknownReport_of_ok, State.unknownReport_of_not_running⟩
  exact ⟨_, step_of_unknown hrun h, State.toNat_fetch_pc s, rfl, s.fetch_changesOnly, _,
    State.unknownReport_of_unknown hrun h, rfl, BitVec.toNat_setWidth ..⟩

/-- Settles O1: the fields of `State.reset`, the pixels being the cleared buffer. -/
theorem resetElementValues : Obligations.ResetElementValues := by
  refine ⟨fun r => ?_, rfl, rfl, rfl, fun j h => ?_, rfl, rfl, rfl, pixelAt_clearPixels, rfl, rfl, rfl, rfl, rfl, rfl⟩
  · simp [State.reg, State.reset]
  · simp [State.reset]

/-- Settles O2: memory is empty after reset, so every address reads as `initialByte`. -/
theorem resetMemoryIsFontAndZeros : Obligations.ResetMemoryIsFontAndZeros := by
  refine ⟨by decide, fun a hge hlt => ?_⟩
  have hread : State.reset.memRead a = initialByte a.toNat := by
    rw [State.memRead_eq, Nat.mod_eq_of_lt hlt]; rfl
  rw [hread, initialByte_of_ge hge]

/-- Settles O3: a load changes memory alone; a rejected one changes the run state and the cause alone. -/
theorem resetLoadsOrRejectsTheImage : Obligations.ResetLoadsOrRejectsTheImage := by
  refine ⟨fun bytes hlen => ?_, fun rom hbad => ?_⟩
  · have hreset := afterReset_image hlen
    refine ⟨fun k => afterReset_memRead hlen, fun a hout ha => afterReset_memRead_outside hlen ha hout, fun r => ?_,
      fun e => ?_, ?_⟩
    · rw [hreset]; rfl
    · rw [hreset]; cases e <;> rfl
    · rw [hreset]; rfl
  · have hrejected : afterReset rom = { State.reset with runState := .halted, haltCause := .initFailure } := by
      rcases hbad with rfl | ⟨bytes, rfl, hlong⟩
      · exact afterReset_unreadable
      · exact afterReset_oversized hlong
    rw [hrejected]
    exact ⟨rfl, rfl, State.raiseFatal_changesOnly State.reset .initFailure⟩

end Sys2Proof
end

/-! Rules over all instructions (10_state.md sections 2 to 11, 60_exceptions.md sections 1 to 3): the writers of each
element, which instructions complete, and what most of them do not read. -/
section
namespace Sys2Proof.Machine

/-! ### The writers of each element -/

/-- From `s` to `t`, what the instruction is no writer of stays as it is: elements, registers and bytes. -/
def KeepsUnwritten (i : Instr) (s t : State) : Prop :=
  (∀ e : Elem, i.writes e = false → e.Same s t) ∧ (∀ r : RegIdx, i.writesReg r = false → t.reg r = s.reg r) ∧
    (∀ a : Word, ¬ i.writesByte s a → t.memRead a = s.memRead a)

/-- A frame whose registers, bytes and elements are among those an instruction may write keeps all the others. -/
theorem ChangesOnly.keeps_unwritten {i : Instr} {regs : RegIdx → Prop} {stored : Word → Prop} {elems : List Elem}
    {s t : State} (h : ChangesOnly regs stored elems s t) (hr : ∀ r, regs r → i.writesReg r = true)
    (hm : ∀ a, stored a → i.writesByte s a) (he : ∀ e ∈ elems, i.writes e = true) : KeepsUnwritten i s t := by
  refine ⟨fun e hno => h.elems_same e fun hmem => ?_, fun r hno => h.regs_same r fun hreg => ?_,
    fun a hno => h.mem_same a fun hbyte => hno (hm a hbyte)⟩
  · rw [he e hmem] at hno; cases hno
  · rw [hr r hreg] at hno; cases hno

/-- The same for a frame of elements alone. -/
theorem ChangesOnly.keeps_unwritten_of_elems {i : Instr} {elems : List Elem} {s t : State}
    (h : ChangesOnly noReg noByte elems s t) (he : ∀ e ∈ elems, i.writes e = true) :
    KeepsUnwritten i s t :=
  h.keeps_unwritten (fun _ => False.elim) (fun _ => False.elim) he

theorem exec_keeps_unwritten {i : Instr} {s t : State} (h : exec i s = .next t) : KeepsUnwritten i s t := by
  cases i with
  | sys =>
    cases h
    exact (ChangesOnly.refl noReg noByte [] s).keeps_unwritten_of_elems (by simp)
  | cls =>
    cases h
    exact (s.redrawnPix_changesOnly _).keeps_unwritten_of_elems (by simp [Instr.writes])
  | drw x y n =>
    cases h
    exact (s.drawn_changesOnly _ _).keeps_unwritten (by simp [onlyReg, Instr.writesReg]) (fun _ => False.elim)
      (by simp [Instr.writes])
  | call nnn =>
    rcases execCall_cases nnn s with ⟨-, he⟩ | ⟨hroom, he⟩ | ⟨-, he⟩
    · cases he.symm.trans h
      exact (s.raiseFatal_changesOnly _).keeps_unwritten_of_elems (by simp [Instr.writes])
    · cases he.symm.trans h
      exact (s.pushPc_setPc_changesOnly hroom _).keeps_unwritten_of_elems (by simp [Instr.writes])
    · cases he.symm.trans h
  | ret =>
    rcases execRet_cases s with ⟨-, he⟩ | ⟨hentry, -, he⟩ | ⟨-, he⟩
    · cases he.symm.trans h
      exact (s.raiseFatal_changesOnly _).keeps_unwritten_of_elems (by simp [Instr.writes])
    · cases he.symm.trans h
      exact (s.popPc_changesOnly hentry).keeps_unwritten_of_elems (by simp [Instr.writes])
    · cases he.symm.trans h
  | jp | jpV0 =>
    cases h
    exact (s.setPc_changesOnly _).keeps_unwritten_of_elems (by simp [Instr.writes])
  | seByte | sneByte | seReg | sneReg | skp | sknp =>
    cases h
    exact (s.skipIf_changesOnly _).keeps_unwritten_of_elems (by simp [Instr.writes])
  | ldByte | addByte | ldReg | orReg | andReg | xorReg | ldVxDT =>
    cases h
    exact (s.setReg_changesOnly _ _).keeps_unwritten (by simp [onlyReg, Instr.writesReg])
      (fun _ => False.elim) (by simp)
  | addReg | subReg | shr | subn | shl =>
    cases h
    exact (s.setFlagThenReg_changesOnly _ _ _).keeps_unwritten (by simp [regAndFlag, Instr.writesReg])
      (fun _ => False.elim) (by simp)
  | rnd =>
    cases h
    exact (s.drawRandom_setReg_changesOnly _ _).keeps_unwritten (by simp [onlyReg, Instr.writesReg])
      (fun _ => False.elim) (by simp [Instr.writes])
  | ldI | addIVx | ldFVx =>
    cases h
    exact (s.setI_changesOnly _).keeps_unwritten_of_elems (by simp [Instr.writes])
  | ldVxK x =>
    rcases execLdVxK_cases x s with he | ⟨-, k, -, he⟩
    · cases he.symm.trans h
      exact s.sampleAndRewind_changesOnly.keeps_unwritten_of_elems (by simp [Instr.writes])
    · cases he.symm.trans h
      exact (s.takeKey_changesOnly x k).keeps_unwritten (by simp [onlyReg, Instr.writesReg]) (fun _ => False.elim)
        (by simp [Instr.writes])
  | ldDTVx =>
    cases h
    exact (s.writeDT_changesOnly _).keeps_unwritten_of_elems (by simp [Instr.writes])
  | ldSTVx =>
    cases h
    exact (s.writeST_changesOnly _).keeps_unwritten_of_elems (by simp [Instr.writes])
  | ldBVx x =>
    exact (execLdBVx_changesOnly (x := x) h).keeps_unwritten (fun _ => False.elim) (fun _ => id) (by simp)
  | ldMemVx x =>
    cases h
    exact (storeRegs_changesOnly _ s).keeps_unwritten (fun _ => False.elim) (fun _ => id) (by simp)
  | ldVxMem x =>
    cases h
    exact (loadRegs_changesOnly x s).keeps_unwritten (by simp [Instr.writesReg, BitVec.le_def]) (fun _ => False.elim)
      (by simp)

/-- An element that the instruction is no writer of. -/
theorem exec_elem_same {i : Instr} {s t : State} (h : exec i s = .next t) {e : Elem} (he : i.writes e = false) :
    e.Same s t := (exec_keeps_unwritten h).1 e he

/-! ### Which instructions complete -/

theorem execCall_of_illegal (nnn : Addr) {s : State} (h : 16 < s.SP.toNat) :
    execCall nnn s = .fault .illegalStackPointer := by
  rcases execCall_cases nnn s with ⟨h16, -⟩ | ⟨hroom, -⟩ | ⟨-, he⟩
  · rw [h16] at h; exact absurd h (by decide)
  · exact absurd hroom (Nat.lt_asymm h)
  · exact he

theorem execRet_of_illegal {s : State} (h : 16 < s.SP.toNat) : execRet s = .fault .illegalStackPointer := by
  rcases execRet_cases s with ⟨h0, -⟩ | ⟨hentry, -, -⟩ | ⟨-, he⟩
  · rw [h0] at h; exact absurd h (by decide)
  · simp only [Config.stackDepth] at hentry; omega
  · exact he

/-- Only CALL and RET can fail to complete. -/
theorem exec_completes_of_not_stack {i : Instr} (s : State) (h : ¬ ((∃ nnn, i = .call nnn) ∨ i = .ret)) :
    ∃ t, exec i s = .next t := by
  cases i with
  | call nnn => exact absurd (.inl ⟨nnn, rfl⟩) h
  | ret => exact absurd (.inr rfl) h
  | ldVxK x =>
    rcases execLdVxK_cases x s with he | ⟨-, _, -, he⟩
    · exact ⟨_, he⟩
    · exact ⟨_, he⟩
  | _ => exact ⟨_, rfl⟩

/-! ### What most instructions do not read -/

/-- The instructions that read the keypad, the stack or the key wait's sample. -/
def readsKeysOrStack : Instr → Bool
  | .call _ | .ret | .skp _ | .sknp _ | .ldVxK _ => true
  | _ => false

/-- The state with another keypad, IR, stack and key-wait sample. -/
def State.withUnread (s : State) (key : Keys) (ir : Word) (stack : Vector Word 16) (snap : Keys) : State :=
  { s with key := key, IR := ir, stack := stack, kwSnap := snap }

section
variable (s : State) (key : Keys) (ir : Word) (stack : Vector Word 16) (snap : Keys)

theorem State.skipIf_withUnread (c : Bool) :
    (s.withUnread key ir stack snap).skipIf c = (s.skipIf c).withUnread key ir stack snap := by cases c <;> rfl

theorem storeRegs_withUnread (rs : List Nat) :
    storeRegs rs (s.withUnread key ir stack snap) = (storeRegs rs s).withUnread key ir stack snap := by
  induction rs generalizing s with
  | nil => rfl
  | cons r rs ih => exact ih (s.memWrite _ _)

theorem loadRegs_withUnread (rs : List Nat) :
    loadRegs rs (s.withUnread key ir stack snap) = (loadRegs rs s).withUnread key ir stack snap := by
  induction rs generalizing s with
  | nil => rfl
  | cons r rs ih => exact ih (s.setReg _ _)

end

/-- The sprite engine reads the memory and `I` of its state and nothing else. -/
theorem drawRows_congr {s s' : State} (hmem : s'.mem = s.mem) (hI : s'.I = s.I) (x0 y0 : Nat) (rs : List Nat)
    (cv : Canvas) : drawRows s' x0 y0 rs cv = drawRows s x0 y0 rs cv := by
  induction rs generalizing cv with
  | nil => rfl
  | cons r rs ih => rw [drawRows, drawRows, ih, hI, State.memRead_congr hmem]

theorem drawSprite_withUnread (s : State) (key : Keys) (ir : Word) (stack : Vector Word 16) (snap : Keys)
    (x y : RegIdx) (n : Nibble) : drawSprite x y n (s.withUnread key ir stack snap) = drawSprite x y n s :=
  drawRows_congr (s := s) (s' := s.withUnread key ir stack snap) rfl rfl _ _ _ _

theorem exec_withUnread {i : Instr} (hi : readsKeysOrStack i = false) {s t : State} (h : exec i s = .next t)
    (key : Keys) (ir : Word) (stack : Vector Word 16) (snap : Keys) :
    exec i (s.withUnread key ir stack snap) = .next (t.withUnread key ir stack snap) := by
  cases i with
  | call | ret | skp | sknp | ldVxK => cases hi
  | seByte | sneByte | seReg | sneReg =>
    cases h
    exact congrArg _ (s.skipIf_withUnread key ir stack snap _)
  | drw x y n =>
    cases h
    simp only [exec, execDrw, drawSprite_withUnread]
    rfl
  | ldMemVx => cases h; exact congrArg _ (storeRegs_withUnread s key ir stack snap _)
  | ldVxMem => cases h; exact congrArg _ (loadRegs_withUnread s key ir stack snap _)
  | _ => cases h; rfl

end Sys2Proof.Machine

namespace Sys2Proof

open Machine

/-- Settles O51: each instruction's frame is within its lists of writers. -/
theorem onlyItsWritersChangeAnElement : Obligations.OnlyItsWritersChangeAnElement :=
  fun _ _ _ => exec_keeps_unwritten

/-- Settles O52: CALL and RET alone are writers of the run state and the cause, and write them in their fatal case. -/
theorem onlyStackErrorsChangeTheRunState : Obligations.OnlyStackErrorsChangeTheRunState := by
  intro i s t h hchange
  cases i with
  | call nnn =>
    rcases execCall_cases nnn s with ⟨hfull, he⟩ | ⟨hroom, he⟩ | ⟨-, he⟩
    · cases he.symm.trans h
      exact .inl ⟨nnn, rfl, hfull, rfl, rfl⟩
    · cases he.symm.trans h
      exact (hchange.elim (· rfl) (· rfl)).elim
    · cases he.symm.trans h
  | ret =>
    rcases execRet_cases s with ⟨hempty, he⟩ | ⟨hentry, -, he⟩ | ⟨-, he⟩
    · cases he.symm.trans h
      exact .inr ⟨rfl, hempty, rfl, rfl⟩
    · cases he.symm.trans h
      exact (hchange.elim (· rfl) (· rfl)).elim
    · cases he.symm.trans h
  | _ =>
    have hrun := exec_elem_same h (e := .runState) rfl
    have hcause := exec_elem_same h (e := .haltCause) rfl
    exact (hchange.elim (· hrun) (· hcause)).elim

/-- Settles O53: CALL and RET complete up to SP = 16 and fault above it; the others never look at SP. -/
theorem everyInstructionCompletesInLegalStates : Obligations.EveryInstructionCompletesInLegalStates := by
  refine ⟨fun i s hSP => ?_, fun i s hSP => ⟨?_, exec_completes_of_not_stack s⟩⟩
  · obtain ⟨t, h, -⟩ := exec_completes_keeping_IR i hSP
    exact ⟨t, h⟩
  · rintro (⟨nnn, rfl⟩ | rfl)
    · exact execCall_of_illegal nnn hSP
    · exact execRet_of_illegal hSP

/-- Settles O50: no instruction is a writer of the keypad, and those that do not read it commute with changing it. -/
theorem keypadIsTheHostsAlone : Obligations.KeypadIsTheHostsAlone := by
  refine ⟨fun i s t h => exec_elem_same h (e := .key) rfl, fun i s t keys hi h => ?_, fun s keys => ?_⟩
  · cases i with
    | skp x => exact absurd rfl (hi x).1
    | sknp x => exact absurd rfl (hi x).2.1
    | ldVxK x => exact absurd rfl (hi x).2.2
    | call nnn =>
      rcases execCall_cases nnn s with ⟨hfull, he⟩ | ⟨hroom, he⟩ | ⟨-, he⟩
      · cases he.symm.trans h
        exact execCall_of_full (s := { s with key := keys }) nnn hfull
      · cases he.symm.trans h
        exact execCall_of_room (s := { s with key := keys }) nnn hroom
      · cases he.symm.trans h
    | ret =>
      rcases execRet_cases s with ⟨hempty, he⟩ | ⟨hentry, hne, he⟩ | ⟨-, he⟩
      · cases he.symm.trans h
        exact execRet_of_empty (s := { s with key := keys }) hempty
      · cases he.symm.trans h
        have hpos : 0 < s.SP.toNat := Nat.pos_of_ne_zero fun e => hne (BitVec.eq_of_toNat_eq e)
        exact execRet_of_entry (s := { s with key := keys }) hpos hentry
      · cases he.symm.trans h
    | _ =>
      have hIR : t.IR = s.IR := exec_elem_same h (e := .IR) rfl
      have hstack : t.stack = s.stack := exec_elem_same h (e := .stack) rfl
      have hsnap : t.kwSnap = s.kwSnap := exec_elem_same h (e := .kwSnap) rfl
      have hkeep : t.withUnread keys s.IR s.stack s.kwSnap = { t with key := keys } := by
        rw [← hIR, ← hstack, ← hsnap]; rfl
      exact (exec_withUnread rfl h keys s.IR s.stack s.kwSnap).trans (congrArg _ hkeep)
  · exact ⟨_, rfl, fun _ => rfl, s.keyIn_changesOnly keys⟩

end Sys2Proof
end

/-! Display (44_display.md R192): the pixels a sprite covers, and the sprite engine as a toggle of those pixels. -/
section
namespace Sys2Proof.Machine

/-! ### The pixels of a sprite -/

/-- Row `r` of the sprite is `py - y0` and column offset `c` is `px - x0`. -/
theorem spritePixels_range_iff (s : State) (x0 y0 n px py : Nat) :
    spritePixels s x0 y0 (List.range n) px py ↔ spriteCovers s x0 y0 n px py := by
  constructor
  · rintro ⟨hpy, r, hr, rfl, hpx, c, hc, rfl, hbit⟩
    have hr := List.mem_range.mp hr
    have hc := List.mem_range.mp hc
    refine ⟨hpx, hpy, by omega, by omega, by omega, by omega, ?_⟩
    rwa [Nat.add_sub_cancel_left, Nat.add_sub_cancel_left]
  · rintro ⟨hpx, hpy, hy0, hyn, hx0, hx8, hbit⟩
    exact ⟨hpy, py - y0, List.mem_range.mpr (by omega), by omega, hpx, px - x0, List.mem_range.mpr (by omega), by omega,
      hbit⟩

/-- Whether the sprite of DXYN in `s`, at its own origin, has a set bit on the pixel. -/
def drwCovers (x y : RegIdx) (n : Nibble) (s : State) : Nat → Nat → Prop :=
  spriteCovers s ((s.reg x).toNat % 64) ((s.reg y).toNat % 32) n.toNat

/-- The engine that `drawSprite` runs on its canvas toggles exactly the covered pixels. -/
theorem drawSprite_draws (x y : RegIdx) (n : Nibble) (s : State) :
    Draws (drawRows s (originCol (s.reg x)) (originRow (s.reg y)) (List.range n.toNat)) (drwCovers x y n s) :=
  (drawRows_draws s _ _ _ List.pairwise_lt_range).of_iff (spritePixels_range_iff s _ _ _)

theorem drawSprite_toggles {x y : RegIdx} {n : Nibble} {s : State} {px py : Nat} (h : drwCovers x y n s px py) :
    pixelAt (drawSprite x y n s).pix px py = !pixelAt s.pix px py :=
  (drawSprite_draws x y n s).toggled ⟨s.pix, false⟩ px py h

theorem drawSprite_keeps {x y : RegIdx} {n : Nibble} {s : State} {px py : Nat} (h : ¬ drwCovers x y n s px py) :
    pixelAt (drawSprite x y n s).pix px py = pixelAt s.pix px py :=
  (drawSprite_draws x y n s).kept ⟨s.pix, false⟩ px py h

theorem drawSprite_hit_iff (x y : RegIdx) (n : Nibble) (s : State) :
    (drawSprite x y n s).hit = true ↔ ∃ px py, drwCovers x y n s px py ∧ pixelAt s.pix px py = true :=
  ((drawSprite_draws x y n s).hit_iff ⟨s.pix, false⟩).trans (or_iff_right Bool.false_ne_true)

/-- The sprite is the same in a state with the same memory, `I` and origin. -/
theorem drwCovers_congr {x y : RegIdx} {s t : State} (n : Nibble) (hmem : t.mem = s.mem) (hI : t.I = s.I)
    (hx : t.reg x = s.reg x) (hy : t.reg y = s.reg y) : drwCovers x y n t = drwCovers x y n s := by
  funext px py
  simp only [drwCovers, spriteCovers, hx, hy, hI, State.memRead_congr hmem]

/-! ### Buffers by their pixels -/

theorem pixelBuffer_ext {p q : PixelBuffer} (h : ∀ px py, pixelAt p px py = pixelAt q px py) : p = q := by
  apply Vector.ext
  intro y hy
  apply BitVec.eq_of_getLsbD_eq
  intro px _
  simpa [pixelAt, hy] using h px y

/-! ### DXYN -/

/-- The state after DXYN. -/
def drwResult (x y : RegIdx) (n : Nibble) (s : State) : State :=
  { s.setReg 0xF#4 (collisionFlag (drawSprite x y n s).hit) with pix := (drawSprite x y n s).pix, needsRedraw := true }

theorem exec_drw (x y : RegIdx) (n : Nibble) (s : State) : exec (.drw x y n) s = .next (drwResult x y n s) := rfl

theorem drwResult_flag (x y : RegIdx) (n : Nibble) (s : State) :
    (drwResult x y n s).reg 0xF#4 = flagByte (drawSprite x y n s).hit := State.reg_setReg_self s 0xF#4 _

theorem flagByte_eq_one_iff (b : Bool) : flagByte b = 1 ↔ b = true := by cases b <;> decide

theorem flagByte_eq_zero_iff (b : Bool) : flagByte b = 0 ↔ b = false := by cases b <;> decide

end Sys2Proof.Machine

namespace Sys2Proof

open Machine

/-- Settles O37: the engine toggles the covered pixels and reports whether one of them was on. -/
theorem drawTogglesThePixelsOfTheSprite : Obligations.DrawTogglesThePixelsOfTheSprite := by
  intro x y n s
  refine ⟨_, exec_drw x y n s, rfl, fun px py => drawSprite_toggles, fun px py => drawSprite_keeps, fun hhit => ?_,
    fun hmiss => ?_, s.drawn_changesOnly _ _⟩
  · rw [drwResult_flag, flagByte_eq_one_iff]
    exact (drawSprite_hit_iff x y n s).mpr hhit
  · rw [drwResult_flag, flagByte_eq_zero_iff]
    exact Bool.eq_false_iff.mpr fun hhit => hmiss ((drawSprite_hit_iff x y n s).mp hhit)

/-- Settles O38: both draws cover the same pixels, so each is toggled twice, and the second finds on what the first
found off. -/
theorem drawingTwiceRestoresThePixels : Obligations.DrawingTwiceRestoresThePixels := by
  intro x y n s t h hx hy
  obtain rfl : drwResult x y n s = t := Host.Outcome.next.inj h
  have hcovers : drwCovers x y n (drwResult x y n s) = drwCovers x y n s := drwCovers_congr n rfl rfl hx hy
  have toggled {px py : Nat} (hc : drwCovers x y n s px py) :
      pixelAt (drwResult x y n s).pix px py = !pixelAt s.pix px py := drawSprite_toggles hc
  refine ⟨_, exec_drw x y n _, pixelBuffer_ext fun px py => ?_, ?_, ?_⟩
  · by_cases hc : drwCovers x y n s px py
    · have hc' : drwCovers x y n (drwResult x y n s) px py := by rwa [hcovers]
      exact (drawSprite_toggles hc').trans (by rw [toggled hc, Bool.not_not])
    · have hc' : ¬ drwCovers x y n (drwResult x y n s) px py := by rwa [hcovers]
      exact (drawSprite_keeps hc').trans (drawSprite_keeps hc)
  · rw [drwResult_flag, flagByte_eq_one_iff, drawSprite_hit_iff, hcovers]
    refine exists_congr fun px => exists_congr fun py => and_congr_right fun hc => ?_
    rw [toggled hc, Bool.not_eq_true']
  · rw [drwResult_flag, flagByte_eq_one_iff, flagByte_eq_zero_iff]
    exact Bool.eq_false_or_eq_true _

end Sys2Proof
end

/-! The key wait (45_timers_keys.md R213): the lowest newly pressed key, and where the wait leaves `pc`. -/
section
namespace Sys2Proof.Machine

/-! ### The newly pressed keys -/

theorem getLsbD_newlyPressed (snap keys : Keys) {k : Nat} (hk : k < 16) :
    (newlyPressed snap keys).getLsbD k = true ↔ snap.getLsbD k = false ∧ keys.getLsbD k = true := by
  simp [newlyPressed, hk]

theorem lowestKey_eq_none {t : Keys} (h : ∀ k, k < 16 → ¬ t.getLsbD k = true) : lowestKey t = none := by
  rw [lowestKey, Option.map_eq_none_iff, List.find?_eq_none]
  exact fun k hk => h k (List.mem_range.mp hk)

theorem lowestKey_eq_some {t : Keys} {k : Nat} (hk : k < 16) (hset : t.getLsbD k = true)
    (hlow : ∀ j, j < k → ¬ t.getLsbD j = true) : lowestKey t = some (BitVec.ofNat 8 k) := by
  have hfind : (List.range 16).find? (fun j => t.getLsbD j) = some k :=
    List.find?_range_eq_some.mpr ⟨hset, List.mem_range.mpr hk, fun j hj => by simpa using hlow j hj⟩
  rw [lowestKey, hfind, Option.map_some]

/-! ### The rewind -/

/-- The fetch and the rewind cancel at an address of the RAM. -/
theorem State.sampleAndRewind_fetch_pc {s : State} (hpc : s.pc.toNat < Config.memSize) :
    s.fetch.sampleAndRewind.pc = s.pc := by
  apply BitVec.eq_of_toNat_eq
  rw [State.sampleAndRewind_pc, addr12_toNat, BitVec.toNat_sub, State.toNat_fetch_pc]
  show (65536 - 2 + (s.pc.toNat + 2) % 4096) % 65536 % 4096 = _
  simp only [Config.memSize] at hpc
  omega

theorem State.fetchWord_congr {s t : State} (hpc : t.pc = s.pc) (hmem : t.mem = s.mem) : t.fetchWord = s.fetchWord := by
  simp only [State.fetchWord, State.memRead, hpc, hmem]

/-- FX0A while it waits. -/
theorem execLdVxK_waits (x : RegIdx) {s : State}
    (h : s.kwPhase = .idle ∨ lowestKey (newlyPressed s.kwSnap s.key) = none) :
    execLdVxK x s = .next s.sampleAndRewind := by
  unfold execLdVxK
  rcases h with h | h
  · rw [h]
  · rw [h]; cases s.kwPhase <;> rfl

/-- FX0A when it ends. -/
theorem execLdVxK_takes (x : RegIdx) {s : State} {k : Byte} (hw : s.kwPhase = .waiting)
    (hk : lowestKey (newlyPressed s.kwSnap s.key) = some k) :
    execLdVxK x s = .next { s.setReg x k with kwPhase := .idle } := by
  unfold execLdVxK
  rw [hw, hk]

end Sys2Proof.Machine

namespace Sys2Proof

open Machine

/-- Settles O42: in either case FX0A samples and rewinds. -/
theorem keyWaitSamplesAndWaits : Obligations.KeyWaitSamplesAndWaits := by
  intro x s h
  have hwait : s.kwPhase = .idle ∨ lowestKey (newlyPressed s.kwSnap s.key) = none :=
    h.imp_right fun hnone => lowestKey_eq_none fun k hk hset => hnone k hk ((getLsbD_newlyPressed _ _ hk).mp hset)
  refine ⟨_, execLdVxK_waits x hwait, rfl, rfl, ?_, s.sampleAndRewind_changesOnly⟩
  rw [State.sampleAndRewind_pc, addr12_toNat, BitVec.toNat_sub]
  show (65536 - 2 + s.pc.toNat) % 65536 % 4096 = _
  omega

/-- Settles O43: the key is the lowest of the newly pressed ones. -/
theorem keyWaitTakesTheLowestNewKey : Obligations.KeyWaitTakesTheLowestNewKey := by
  intro x s k hw hk hreleased hpressed hlow
  have hkey : lowestKey (newlyPressed s.kwSnap s.key) = some (BitVec.ofNat 8 k) :=
    lowestKey_eq_some hk ((getLsbD_newlyPressed _ _ hk).mpr ⟨hreleased, hpressed⟩) fun j hj hset =>
      hlow j hj ((getLsbD_newlyPressed _ _ (hj.trans hk)).mp hset)
  refine ⟨_, execLdVxK_takes x hw hkey, ?_, rfl, s.takeKey_changesOnly x _⟩
  have hreg : ({ s.setReg x (BitVec.ofNat 8 k) with kwPhase := .idle } : State).reg x = BitVec.ofNat 8 k :=
    State.reg_setReg_self s x _
  rw [hreg, BitVec.toNat_ofNat]
  omega

/-- Settles O44: a wait rewinds what the fetch moved; the end of a wait leaves `pc` where the fetch did. -/
theorem keyWaitStepStaysOnItself : Obligations.KeyWaitStepStaysOnItself := by
  intro x s t hrun hpc hi h
  have hexec : execLdVxK x s.fetch = .next t := (step_of_ok hrun hi).symm.trans h
  rcases execLdVxK_cases x s.fetch with he | ⟨-, k, -, he⟩
  · cases he.symm.trans hexec
    have hback := State.sampleAndRewind_fetch_pc hpc
    exact ⟨fun _ => ⟨hback, State.fetchWord_congr hback rfl⟩, fun hidle => by cases hidle⟩
  · cases he.symm.trans hexec
    exact ⟨fun hwait => (by cases hwait), fun _ => s.toNat_fetch_pc⟩

end Sys2Proof
end

/-! Run control and the host (60_exceptions.md R239 to R246, 70_reset_and_hazards.md R281): sequences of host
operations, the frame of each, and what stays as it is while Halted or parked. -/
section
namespace Sys2Proof.Machine

/-! ### Sequences of operations -/

theorem performAll_cons_of_next {op : HostOp} {s t : State} (h : perform op s = .next t) (ops : List HostOp) :
    performAll (op :: ops) s = performAll ops t := by
  rw [performAll, h]

/-- A sequence whose first part answers `t` goes on from `t`. -/
theorem performAll_append_of_next {ops : List HostOp} {s t : State} (h : performAll ops s = .next t)
    (rest : List HostOp) : performAll (ops ++ rest) s = performAll rest t := by
  induction ops generalizing s with
  | nil => cases h; rfl
  | cons op ops ih =>
    rw [performAll] at h
    split at h
    · next u hop => rw [List.cons_append, performAll_cons_of_next hop]; exact ih h
    · cases h
    · cases h

/-- A property that every operation of the sequence keeps, with completion, holds at its end. -/
theorem performAll_induction {P : State → Prop} {ops : List HostOp}
    (hop : ∀ op ∈ ops, ∀ s, P s → ∃ t, perform op s = .next t ∧ P t) {s : State} (hs : P s) :
    ∃ t, performAll ops s = .next t ∧ P t := by
  induction ops generalizing s with
  | nil => exact ⟨s, rfl, hs⟩
  | cons op ops ih =>
    obtain ⟨u, hu, hPu⟩ := hop op List.mem_cons_self s hs
    obtain ⟨t, ht, hPt⟩ := ih (fun op' hmem => hop op' (List.mem_cons_of_mem _ hmem)) hPu
    exact ⟨t, (performAll_cons_of_next hu ops).trans ht, hPt⟩

theorem runInstructions_of_not_running {s : State} (hr : s.runState ≠ .running) (n : Nat) :
    runInstructions n s = .next s := by
  induction n with
  | zero => rfl
  | succ n ih => exact (performAll_cons_of_next (op := .step) (step_of_not_running hr) _).trans ih

/-! ### The frame of each operation -/

theorem State.tick_of_running {s : State} (hr : s.runState = .running) :
    s.tick = { s with DT := tickDown s.DT, ST := tickDown s.ST } := by
  unfold State.tick; rw [hr]

theorem State.tick_of_not_running {s : State} (hr : s.runState ≠ .running) : s.tick = s := by
  unfold State.tick
  split
  · next h => exact absurd h hr
  · rfl
  · rfl

theorem toNat_tickDown (t : Byte) : (tickDown t).toNat = t.toNat - 1 := by
  unfold tickDown
  split <;> bv_omega

theorem State.tick_changesOnly (s : State) : ChangesOnly noReg noByte [.DT, .ST] s s.tick :=
  .of_elems s.tick_V s.tick_mem fun e he => by
    cases e with
    | DT | ST => simp at he
    | _ => simp [Elem.Same]

theorem State.redrawAck_changesOnly (s : State) : ChangesOnly noReg noByte [.needsRedraw] s s.redrawAck :=
  .of_elems rfl rfl fun e he => by
    cases e with
    | needsRedraw => simp at he
    | _ => rfl

theorem State.pauseToggle_of_halted {s : State} (h : s.runState = .halted) : s.pauseToggle = s := by
  unfold State.pauseToggle; rw [h]

theorem State.quit_of_halted {s : State} (h : s.runState = .halted) : s.quit = s := by
  unfold State.quit; rw [h]

/-- Quit is the fatal entry with the quit cause. -/
theorem State.quit_of_not_halted {s : State} (h : s.runState ≠ .halted) : s.quit = s.raiseFatal .quit := by
  unfold State.quit
  split
  · rfl
  · rfl
  · next hh => exact absurd hh h

/-! ### Halted -/

/-- What a Halted block keeps until a reset. -/
structure HaltedFrom (s t : State) : Prop where
  halted : t.runState = .halted
  cause : t.haltCause = s.haltCause
  frame : ChangesOnly noReg noByte [.key, .needsRedraw] s t

theorem HaltedFrom.perform {s t : State} (h : HaltedFrom s t) {op : HostOp} (hop : op.isReset = false) :
    ∃ u, perform op t = .next u ∧ HaltedFrom s u := by
  have hnot : t.runState ≠ .running := by rw [h.halted]; decide
  cases op with
  | step => exact ⟨t, step_of_not_running hnot, h⟩
  | tick => exact ⟨t, congrArg _ (State.tick_of_not_running hnot), h⟩
  | keyIn keys =>
    exact ⟨_, rfl, h.halted, h.cause,
      h.frame.trans ((t.keyIn_changesOnly keys).mono_elems (by decide))⟩
  | pauseToggle => exact ⟨t, congrArg _ (State.pauseToggle_of_halted h.halted), h⟩
  | quit => exact ⟨t, congrArg _ (State.quit_of_halted h.halted), h⟩
  | redrawAck =>
    exact ⟨_, rfl, h.halted, h.cause,
      h.frame.trans (t.redrawAck_changesOnly.mono_elems (by decide))⟩
  | reset rom => cases hop

/-! ### Parked -/

/-- A step of a parked block fetches its jump, which takes `pc` back. -/
theorem State.ParkedAt.step {s : State} {p : Addr} (h : s.ParkedAt p) :
    ∃ t, step s = .next t ∧ t.ParkedAt p ∧ ChangesOnly noReg noByte [.IR] s t := by
  have hi : decodeWord s.fetchWord = .ok (.jp p) := by rw [h.word]; exact decodeWord_encode (i := .jp p) rfl
  have hpc : (s.fetch.setPc (addrOf p)).pc = addrOf p := addr12_addrOf p
  refine ⟨_, step_of_ok h.running hi, ⟨h.running, hpc, ?_⟩, .of_elems rfl rfl fun e he => ?_⟩
  · exact (State.fetchWord_congr (hpc.trans h.pc.symm) rfl).trans h.word
  · cases e with
    | pc => exact hpc.trans h.pc.symm
    | IR => simp at he
    | _ => rfl

theorem State.ParkedAt.tick {s : State} {p : Addr} (h : s.ParkedAt p) : s.tick.ParkedAt p where
  running := s.tick_runState.trans h.running
  pc := s.tick_pc.trans h.pc
  word := (State.fetchWord_congr s.tick_pc s.tick_mem).trans h.word

end Sys2Proof.Machine

namespace Sys2Proof

open Machine

/-- Settles O41: one tick by `tickDown`, n ticks by induction on n, and the writers of DT and ST. -/
theorem ticksCountBothTimersDownToZero : Obligations.TicksCountBothTimersDownToZero := by
  have one (s : State) (hr : s.runState = .running) :
      s.tick.DT.toNat = s.DT.toNat - 1 ∧ s.tick.ST.toNat = s.ST.toNat - 1 := by
    rw [State.tick_of_running hr]
    exact ⟨toNat_tickDown s.DT, toNat_tickDown s.ST⟩
  refine ⟨fun s hr => ⟨_, rfl, (one s hr).1, (one s hr).2, s.tick_changesOnly⟩, fun n => ?_, fun i s t h => ⟨?_, ?_⟩⟩
  · induction n with
    | zero => exact fun s _ => ⟨s, rfl, rfl, rfl, .refl ..⟩
    | succ n ih =>
      intro s hr
      obtain ⟨t, ht, hDT, hST, hframe⟩ := ih s.tick (s.tick_runState.trans hr)
      obtain ⟨hDT1, hST1⟩ := one s hr
      refine ⟨t, (performAll_cons_of_next rfl _).trans ht, ?_, ?_, s.tick_changesOnly.trans hframe⟩
      · rw [hDT, hDT1, Nat.sub_sub, Nat.add_comm]
      · rw [hST, hST1, Nat.sub_sub, Nat.add_comm]
  · intro hi
    cases i with
    | ldDTVx x => exact absurd rfl (hi x)
    | _ => exact exec_elem_same h (e := .DT) rfl
  · intro hi
    cases i with
    | ldSTVx x => exact absurd rfl (hi x)
    | _ => exact exec_elem_same h (e := .ST) rfl

/-- Settles O45: the rows of the table. -/
theorem pauseAndQuitFollowTheTable : Obligations.PauseAndQuitFollowTheTable := by
  intro s
  refine ⟨fun h => ?_, fun h => ?_, fun h => ?_, fun h => ⟨?_, ?_⟩⟩
  · simp [perform, State.pauseToggle, h]
  · simp [perform, State.pauseToggle, h]
  · exact ⟨s.raiseFatal .quit, congrArg _ (State.quit_of_not_halted h), rfl, rfl, s.raiseFatal_changesOnly .quit⟩
  · exact congrArg _ (State.pauseToggle_of_halted h)
  · exact congrArg _ (State.quit_of_halted h)

/-- Settles O46: steps and ticks look at the run state, the keypad and the acknowledge do not. -/
theorem pausedAndHaltedDoNothing : Obligations.PausedAndHaltedDoNothing := by
  intro s keys hr
  exact ⟨step_of_not_running hr, congrArg _ (State.tick_of_not_running hr), rfl, rfl⟩

/-- Settles O47: each operation short of a reset keeps `HaltedFrom`; the reset is the model's `hostReset`; and an
unknown word leaves the run state of the fetch. -/
theorem haltedIsTerminalUntilReset : Obligations.HaltedIsTerminalUntilReset := by
  refine ⟨fun ops s hh hops => ?_, fun bytes s hlen => ?_, fun s r hrun h => ?_⟩
  · obtain ⟨t, ht, hfrom⟩ := performAll_induction (P := HaltedFrom s)
      (fun op hop t hfrom => hfrom.perform (hops op hop)) ⟨hh, rfl, .refl ..⟩
    have hnot : t.runState ≠ .running := by rw [hfrom.halted]; decide
    exact ⟨t, ht, hfrom.halted, hfrom.cause, hfrom.frame, State.unknownReport_of_not_running hnot⟩
  · exact ⟨_, rfl, congrArg State.runState (afterReset_image hlen), rfl⟩
  · exact ⟨_, step_of_unknown hrun h, hrun⟩

/-- Settles O48: m + n steps are the sequence of m followed by that of n. -/
theorem runningInstructionsStopsAtHalt : Obligations.RunningInstructionsStopsAtHalt := by
  intro m n s t h
  have hsplit : runInstructions (m + n) s = runInstructions n t := by
    rw [runInstructions, List.replicate_add]
    exact performAll_append_of_next h _
  refine ⟨hsplit, fun hh => hsplit.trans (runInstructions_of_not_running ?_ n)⟩
  rw [hh]; decide

/-- Settles O49: bit py*64 + px is in row py at column px, as px is below 64. -/
theorem frameAcknowledgeClearsOnlyTheRedrawFlag : Obligations.FrameAcknowledgeClearsOnlyTheRedrawFlag := by
  refine ⟨fun s => ⟨_, rfl, rfl, s.redrawAck_changesOnly⟩, fun s px py hx _ => ⟨?_, rfl⟩,
    fun op s t hstep hreset h => ?_⟩
  · have hcol : (py * 64 + px) % 64 = px := by omega
    have hrow : (py * 64 + px) / 64 = py := by omega
    rw [Outputs.pixOutBit, hcol, hrow]
    rfl
  · cases op with
    | step => exact absurd rfl hstep
    | reset rom => cases hreset
    | tick => cases h; exact s.tick_pix
    | keyIn keys => cases h; rfl
    | pauseToggle => cases h; exact s.pauseToggle_pix
    | quit => cases h; exact s.quit_pix
    | redrawAck => cases h; rfl

/-- Settles O58: by induction on the number of steps. -/
theorem parkedStaysParked : Obligations.ParkedStaysParked := by
  intro p s h
  refine ⟨fun n => ?_, _, rfl, h.tick⟩
  induction n generalizing s with
  | zero => exact ⟨s, rfl, h, .refl ..⟩
  | succ n ih =>
    obtain ⟨u, hu, hparked, hframe⟩ := h.step
    obtain ⟨t, ht, hparked', hframe'⟩ := ih u hparked
    exact ⟨t, (performAll_cons_of_next (op := .step) hu _).trans ht, hparked', hframe.trans hframe'⟩

end Sys2Proof
end

/-! The invariant (10_state.md, the legal values; 60_exceptions.md R236): the bounds on the registers, which every named
operation keeps, and the key wait, which every step leaves on its FX0A. -/
section
namespace Sys2Proof.Machine

/-! ### The bounds -/

/-- The invariant without its last clause, the key wait: what the execute phase of an instruction keeps by itself. -/
structure State.Bounded (s : State) : Prop where
  mem_wf : s.mem.wf = true
  pc_lt : s.pc.toNat < Config.memSize
  I_lt : s.I.toNat < Config.memSize
  SP_le : s.SP.toNat ≤ Config.stackDepth
  stack_lt : ∀ (j : Nat) (h : j < Config.stackDepth), j < s.SP.toNat → (s.stack[j]'h).toNat < Config.memSize
  halted_iff : s.runState = .halted ↔ s.haltCause ≠ .none

theorem State.Inv.bounded {s : State} (h : s.Inv) : s.Bounded :=
  ⟨h.mem_wf, h.pc_lt, h.I_lt, h.SP_le, h.stack_lt, h.halted_iff⟩

theorem State.Bounded.inv {s : State} (h : s.Bounded)
    (hwait : s.kwPhase = .waiting → ∃ x, decodeWord s.fetchWord = .ok (.ldVxK x)) : s.Inv :=
  ⟨h.mem_wf, h.pc_lt, h.I_lt, h.SP_le, h.stack_lt, h.halted_iff, hwait⟩

/-- The bounds speak of these elements alone. -/
theorem State.Bounded.congr {s t : State} (h : s.Bounded) (hmem : t.mem = s.mem) (hpc : t.pc = s.pc) (hI : t.I = s.I)
    (hSP : t.SP = s.SP) (hstack : t.stack = s.stack) (hrun : t.runState = s.runState)
    (hcause : t.haltCause = s.haltCause) : t.Bounded where
  mem_wf := hmem ▸ h.mem_wf
  pc_lt := hpc ▸ h.pc_lt
  I_lt := hI ▸ h.I_lt
  SP_le := hSP ▸ h.SP_le
  stack_lt j hj hlt := by
    simp only [hstack]
    exact h.stack_lt j hj (hSP ▸ hlt)
  halted_iff := by rw [hrun, hcause]; exact h.halted_iff

section
variable {s : State} (h : s.Bounded)
include h

theorem State.Bounded.setPc (a : Word) : (s.setPc a).Bounded := { h with pc_lt := addr12_lt a }

theorem State.Bounded.setI (a : Word) : (s.setI a).Bounded := { h with I_lt := addr12_lt a }

theorem State.Bounded.skipIf (c : Bool) : (s.skipIf c).Bounded := by
  cases c with
  | true => exact h.setPc _
  | false => exact h

theorem State.Bounded.memWrite (a : Word) (v : Byte) : (s.memWrite a v).Bounded :=
  { h with mem_wf := State.memWrite_wf h.mem_wf a v }

theorem State.Bounded.storeRegs (rs : List Nat) : (storeRegs rs s).Bounded := by
  rw [storeRegs_eq]
  exact { h with mem_wf := storeRegs_wf rs h.mem_wf }

theorem State.Bounded.loadRegs (rs : List Nat) : (loadRegs rs s).Bounded := by
  rw [loadRegs_eq]
  exact h.congr rfl rfl rfl rfl rfl rfl rfl

theorem State.Bounded.raiseFatal {c : HaltCause} (hc : c ≠ .none) : (s.raiseFatal c).Bounded :=
  { h with halted_iff := iff_of_true rfl hc }

/-- The pushed entry is `pc`; the older ones are as they were. -/
theorem State.Bounded.pushPc (hroom : s.SP.toNat < Config.stackDepth) : (s.pushPc hroom).Bounded :=
  { h with
    SP_le := by rw [State.toNat_pushPc_SP]; exact hroom
    stack_lt := fun j hj hlt => by
      rw [State.toNat_pushPc_SP] at hlt
      simp only [State.pushPc_stack, Vector.getElem_set]
      split
      · exact h.pc_lt
      · exact h.stack_lt j hj (by omega) }

theorem State.Bounded.popPc (hne : s.SP ≠ 0#8) (hentry : s.SP.toNat - 1 < Config.stackDepth) :
    (s.popPc hentry).Bounded := by
  have hpos : 0 < s.SP.toNat := Nat.pos_of_ne_zero fun e => hne (BitVec.eq_of_toNat_eq e)
  have hSP := State.toNat_popPc_SP s hpos hentry
  exact { h with
    pc_lt := addr12_lt _
    SP_le := by rw [hSP]; exact (Nat.sub_le _ _).trans h.SP_le
    stack_lt := fun j hj hlt => h.stack_lt j hj (by omega) }

theorem State.Bounded.sampleAndRewind : s.sampleAndRewind.Bounded := { h with pc_lt := addr12_lt _ }

theorem State.Bounded.fetch : s.fetch.Bounded := { h with pc_lt := addr12_lt _ }

theorem exec_keeps_bounded {i : Instr} {t : State} (hexec : exec i s = .next t) : t.Bounded := by
  cases i with
  | jp | jpV0 => cases hexec; exact h.setPc _
  | call nnn =>
    rcases execCall_cases nnn s with ⟨-, he⟩ | ⟨hroom, he⟩ | ⟨-, he⟩
    · cases he.symm.trans hexec; exact h.raiseFatal (by decide)
    · cases he.symm.trans hexec; exact (h.pushPc hroom).setPc _
    · cases he.symm.trans hexec
  | ret =>
    rcases execRet_cases s with ⟨-, he⟩ | ⟨hentry, hne, he⟩ | ⟨-, he⟩
    · cases he.symm.trans hexec; exact h.raiseFatal (by decide)
    · cases he.symm.trans hexec; exact h.popPc hne hentry
    · cases he.symm.trans hexec
  | seByte | sneByte | seReg | sneReg | skp | sknp => cases hexec; exact h.skipIf _
  | ldI | addIVx | ldFVx => cases hexec; exact h.setI _
  | ldBVx => cases hexec; exact ((h.memWrite _ _).memWrite _ _).memWrite _ _
  | ldMemVx => cases hexec; exact h.storeRegs _
  | ldVxMem => cases hexec; exact h.loadRegs _
  | ldVxK x =>
    rcases execLdVxK_cases x s with he | ⟨-, k, -, he⟩
    · cases he.symm.trans hexec; exact h.sampleAndRewind
    · cases he.symm.trans hexec; exact h.congr rfl rfl rfl rfl rfl rfl rfl
  | _ => cases hexec; exact h.congr rfl rfl rfl rfl rfl rfl rfl

end

/-! ### The key wait -/

/-- A step that ends in a key wait ran an FX0A that took `pc` back to itself: any other step would have started in a key
wait, on an FX0A. -/
theorem step_keeps_waiting_at_key_wait {s t : State} (h : s.Inv) (hstep : step s = .next t)
    (hwait : t.kwPhase = .waiting) : ∃ x, decodeWord t.fetchWord = .ok (.ldVxK x) := by
  rcases step_cases hstep with ⟨-, i, hi, hexec⟩ | ⟨-, ⟨r, hr⟩, rfl⟩ | ⟨-, rfl⟩
  · cases i with
    | ldVxK x =>
      rcases execLdVxK_cases x s.fetch with he | ⟨-, k, -, he⟩
      · cases he.symm.trans hexec
        have hback : s.fetch.sampleAndRewind.fetchWord = s.fetchWord :=
          State.fetchWord_congr (State.sampleAndRewind_fetch_pc h.pc_lt) rfl
        exact ⟨x, by rw [hback]; exact hi⟩
      · cases he.symm.trans hexec
        cases hwait
    | _ =>
      have hsame := exec_elem_same hexec (e := .kwPhase) rfl
      obtain ⟨x, hx⟩ := h.waiting_at_key_wait (hsame.symm.trans hwait)
      cases hi.symm.trans hx
  · obtain ⟨x, hx⟩ := h.waiting_at_key_wait hwait
    cases hr.symm.trans hx
  · exact h.waiting_at_key_wait hwait

theorem step_keeps_inv {s t : State} (h : s.Inv) (hstep : step s = .next t) : t.Inv := by
  have hbounded : t.Bounded := by
    rcases step_cases hstep with ⟨-, i, -, hexec⟩ | ⟨-, -, rfl⟩ | ⟨-, rfl⟩
    · exact exec_keeps_bounded h.bounded.fetch hexec
    · exact h.bounded.fetch
    · exact h.bounded
  exact hbounded.inv (step_keeps_waiting_at_key_wait h hstep)

/-! ### The host's operations -/

theorem State.reset_inv : State.reset.Inv where
  mem_wf := rfl
  pc_lt := by decide
  I_lt := by decide
  SP_le := by decide
  stack_lt _ _ hlt := absurd hlt (Nat.not_lt_zero _)
  halted_iff := by decide
  waiting_at_key_wait hw := by cases hw

/-- The invariant of a state with other timers, keypad, redraw flag or run state. -/
theorem State.Inv.congr {s t : State} (h : s.Inv) (hmem : t.mem = s.mem) (hpc : t.pc = s.pc) (hI : t.I = s.I)
    (hSP : t.SP = s.SP) (hstack : t.stack = s.stack) (hphase : t.kwPhase = s.kwPhase)
    (hhalted : t.runState = .halted ↔ t.haltCause ≠ .none) : t.Inv where
  mem_wf := hmem ▸ h.mem_wf
  pc_lt := hpc ▸ h.pc_lt
  I_lt := hI ▸ h.I_lt
  SP_le := hSP ▸ h.SP_le
  stack_lt j hj hlt := by
    simp only [hstack]
    exact h.stack_lt j hj (hSP ▸ hlt)
  halted_iff := hhalted
  waiting_at_key_wait hw := by
    rw [State.fetchWord_congr hpc hmem]
    exact h.waiting_at_key_wait (hphase.symm.trans hw)

theorem State.Inv.raiseFatal {s : State} (h : s.Inv) {c : HaltCause} (hc : c ≠ .none) : (s.raiseFatal c).Inv :=
  h.congr rfl rfl rfl rfl rfl rfl (iff_of_true rfl hc)

theorem State.Inv.tick {s : State} (h : s.Inv) : s.tick.Inv :=
  h.congr s.tick_mem s.tick_pc s.tick_I s.tick_SP s.tick_stack s.tick_kwPhase (by
    rw [State.tick_runState, State.tick_haltCause]; exact h.halted_iff)

theorem State.Inv.quit {s : State} (h : s.Inv) : s.quit.Inv := by
  by_cases hh : s.runState = .halted
  · rw [State.quit_of_halted hh]; exact h
  · rw [State.quit_of_not_halted hh]; exact h.raiseFatal (by decide)

/-- A pause toggle takes neither to nor from Halted. -/
theorem State.pauseToggle_halted_iff (s : State) : s.pauseToggle.runState = .halted ↔ s.runState = .halted := by
  unfold State.pauseToggle
  cases hr : s.runState with
  | running | paused => exact iff_of_false nofun nofun
  | halted => exact iff_of_true hr rfl

theorem State.Inv.pauseToggle {s : State} (h : s.Inv) : s.pauseToggle.Inv :=
  h.congr s.pauseToggle_mem s.pauseToggle_pc s.pauseToggle_I s.pauseToggle_SP s.pauseToggle_stack
    s.pauseToggle_kwPhase (by
      rw [State.pauseToggle_haltCause, State.pauseToggle_halted_iff]; exact h.halted_iff)

theorem State.hostReset_inv (s : State) (rom : RomImage) : (s.hostReset rom).Inv := by
  have hfailed : (State.reset.raiseFatal .initFailure).Inv := State.reset_inv.raiseFatal (by decide)
  cases rom with
  | unreadable => exact hfailed.congr rfl rfl rfl rfl rfl rfl hfailed.halted_iff
  | image bytes =>
    by_cases hlen : bytes.length ≤ Config.romMax
    · have hwf : (Memory.load State.reset.mem Config.progBase.toNat bytes).wf = true :=
        Memory.wf_load Memory.wf_nil bytes (Nat.add_le_add_left hlen 512)
      rw [State.hostReset, afterReset_image hlen]
      exact { State.reset_inv with mem_wf := hwf, waiting_at_key_wait := fun hw => by cases hw }
    · rw [State.hostReset, afterReset_oversized (Nat.lt_of_not_le hlen)]
      exact hfailed.congr rfl rfl rfl rfl rfl rfl hfailed.halted_iff

theorem step_completes {s : State} (hSP : s.SP.toNat ≤ Config.stackDepth) : ∃ t, step s = .next t := by
  by_cases hr : s.runState = .running
  · obtain ⟨t, ht, -⟩ := step_completes_with_IR hr hSP
    exact ⟨t, ht⟩
  · exact ⟨s, step_of_not_running hr⟩

theorem perform_keeps_inv (op : HostOp) {s : State} (h : s.Inv) : ∃ t, perform op s = .next t ∧ t.Inv := by
  cases op with
  | step =>
    obtain ⟨t, ht⟩ := step_completes h.SP_le
    exact ⟨t, ht, step_keeps_inv h ht⟩
  | tick => exact ⟨_, rfl, h.tick⟩
  | keyIn keys => exact ⟨_, rfl, h.congr rfl rfl rfl rfl rfl rfl h.halted_iff⟩
  | pauseToggle => exact ⟨_, rfl, h.pauseToggle⟩
  | quit => exact ⟨_, rfl, h.quit⟩
  | redrawAck => exact ⟨_, rfl, h.congr rfl rfl rfl rfl rfl rfl h.halted_iff⟩
  | reset rom => exact ⟨_, rfl, s.hostReset_inv rom⟩

end Sys2Proof.Machine

namespace Sys2Proof

open Machine

/-- Settles O54: the fields of `State.reset`. -/
theorem resetSatisfiesTheInvariant : Obligations.ResetSatisfiesTheInvariant := State.reset_inv

/-- Settles O55: the bounds by the operations an instruction is made of, the key wait by its rewind. -/
theorem stepKeepsTheInvariant : Obligations.StepKeepsTheInvariant := fun _ _ => step_keeps_inv

/-- Settles O56: by induction on the sequence, since every operation completes and keeps the invariant. -/
theorem everyHostSequenceIsSafe : Obligations.EveryHostSequenceIsSafe :=
  fun _ _ h => performAll_induction (fun op _ _ hs => perform_keeps_inv op hs) h

end Sys2Proof
end

/-! Noninterference (10_state.md R28, R33, R38): states that differ only in what nothing reads go on alike. -/
section
namespace Sys2Proof.Machine

/-- Two results that no program and no host can tell apart. -/
inductive SameOutcome : Result → Result → Prop where
  | next {t t' : State} (h : SameVisible t t') : SameOutcome (.next t) (.next t')
  | fault (r : Fault) : SameOutcome (.fault r) (.fault r)

theorem SameOutcome.next_of_eq {r r' : Result} {t t' : State} (hr : r = .next t) (hr' : r' = .next t')
    (h : SameVisible t t') : SameOutcome r r' := by
  subst hr hr'
  exact .next h

/-- The clauses of the statement. -/
theorem SameOutcome.agrees {r r' : Result} (h : SameOutcome r r') :
    (∀ t, r = .next t → ∃ t', r' = .next t' ∧ SameVisible t t') ∧ (∀ f, r = .fault f → r' = .fault f) := by
  cases h with
  | next h => exact ⟨fun t ht => ⟨_, rfl, Host.Outcome.next.inj ht ▸ h⟩, nofun⟩
  | fault r => exact ⟨nofun, fun f hf => hf⟩

theorem SameVisible.refl (s : State) : SameVisible s s :=
  ⟨rfl, rfl, rfl, fun _ _ _ => rfl, rfl, rfl, rfl, rfl, rfl, rfl, rfl, rfl, rfl, rfl, fun _ => rfl, rfl⟩

/-! ### The unread elements as an overlay -/

/-- The writers of the stack and of the latch are among the instructions that read them. -/
theorem writes_eq_false_of_not_reads {i : Instr} (hi : readsKeysOrStack i = false) :
    i.writes .SP = false ∧ i.writes .stack = false ∧ i.writes .kwPhase = false ∧ i.writes .kwSnap = false := by
  cases i with
  | call | ret | skp | sknp | ldVxK => cases hi
  | _ => exact ⟨rfl, rfl, rfl, rfl⟩

/-- A state that looks like `s` is `s` with another IR, stack and sample. -/
theorem SameVisible.eq_withUnread {s s' : State} (h : SameVisible s s') :
    s' = s.withUnread s.key s'.IR s'.stack s'.kwSnap := by
  obtain ⟨hV, hI, hpc, -, hSP, hDT, hST, hmem, hkey, hpix, hredraw, hrun, hcause, hphase, -, hdraws⟩ := h
  cases s'
  cases s
  simp_all [State.withUnread]

theorem sameVisible_withUnread {s : State} (ir : Word) {stack : Vector Word 16} {snap : Keys}
    (hstack : ∀ (j : Nat) (hj : j < Config.stackDepth), j < s.SP.toNat → stack[j]'hj = s.stack[j]'hj)
    (hsnap : s.kwPhase = .waiting → snap = s.kwSnap) : SameVisible s (s.withUnread s.key ir stack snap) :=
  ⟨rfl, rfl, rfl, hstack, rfl, rfl, rfl, rfl, rfl, rfl, rfl, rfl, rfl, rfl, hsnap, rfl⟩

section
variable {s s' : State} (h : SameVisible s s')
include h

theorem SameVisible.reg (r : RegIdx) : s'.reg r = s.reg r := State.reg_congr h.V r

theorem SameVisible.fetchWord : s'.fetchWord = s.fetchWord := State.fetchWord_congr h.pc h.mem

/-! ### Operations on states that look alike -/

theorem SameVisible.setPc {a a' : Word} (ha : a' = a) : SameVisible (s.setPc a) (s'.setPc a') :=
  { h with pc := congrArg addr12 ha }

theorem SameVisible.skipIf {c c' : Bool} (hc : c' = c) : SameVisible (s.skipIf c) (s'.skipIf c') := by
  subst hc
  cases c' with
  | true => exact h.setPc (by rw [h.pc])
  | false => exact h

theorem SameVisible.fetch : SameVisible s.fetch s'.fetch :=
  { h with pc := by rw [State.fetch_pc, State.fetch_pc, h.pc] }

theorem SameVisible.raiseFatal (c : HaltCause) : SameVisible (s.raiseFatal c) (s'.raiseFatal c) :=
  { h with runState := rfl, haltCause := rfl }

/-- The pushed entry is the same `pc`. -/
theorem SameVisible.pushPc (hroom : s.SP.toNat < Config.stackDepth) (hroom' : s'.SP.toNat < Config.stackDepth) :
    SameVisible (s.pushPc hroom) (s'.pushPc hroom') :=
  { h with
    SP := by rw [State.pushPc_SP, State.pushPc_SP, h.SP]
    stack := fun j hj hlt => by
      rw [State.toNat_pushPc_SP] at hlt
      simp only [State.pushPc_stack, Vector.getElem_set, h.SP, h.pc]
      split
      · rfl
      · exact h.stack j hj (by omega) }

/-- The popped entry is a valid one. -/
theorem SameVisible.popPc (hpos : 0 < s.SP.toNat) (hentry : s.SP.toNat - 1 < Config.stackDepth)
    (hentry' : s'.SP.toNat - 1 < Config.stackDepth) : SameVisible (s.popPc hentry) (s'.popPc hentry') := by
  have hSP := State.toNat_popPc_SP s hpos hentry
  have htop : s'.stack[s'.SP.toNat - 1]'hentry' = s.stack[s.SP.toNat - 1]'hentry := by
    simp only [h.SP]
    exact h.stack _ hentry (by omega)
  exact { h with
    pc := congrArg addr12 htop
    SP := by rw [State.popPc_SP, State.popPc_SP, h.SP]
    stack := fun j hj hlt => h.stack j hj (by omega) }

/-- Sampling makes the samples equal. -/
theorem SameVisible.sampleAndRewind : SameVisible s.sampleAndRewind s'.sampleAndRewind :=
  { h with
    pc := by rw [State.sampleAndRewind_pc, State.sampleAndRewind_pc, h.pc]
    kwPhase := rfl
    kwSnap := fun _ => h.key }

theorem SameVisible.takeKey (x : RegIdx) (k : Byte) :
    SameVisible { s.setReg x k with kwPhase := .idle } { s'.setReg x k with kwPhase := .idle } :=
  { h with
    V := by rw [State.setReg_V, State.setReg_V, h.V]
    kwPhase := rfl
    kwSnap := fun hw => by cases hw }

theorem SameVisible.tick : SameVisible s.tick s'.tick := by
  by_cases hr : s.runState = .running
  · rw [State.tick_of_running hr, State.tick_of_running (h.runState.trans hr)]
    exact { h with DT := congrArg tickDown h.DT, ST := congrArg tickDown h.ST }
  · rw [State.tick_of_not_running hr, State.tick_of_not_running (fun hr' => hr (h.runState.symm.trans hr'))]
    exact h

theorem SameVisible.quit : SameVisible s.quit s'.quit := by
  by_cases hh : s.runState = .halted
  · rw [State.quit_of_halted hh, State.quit_of_halted (h.runState.trans hh)]
    exact h
  · rw [State.quit_of_not_halted hh, State.quit_of_not_halted (fun hh' => hh (h.runState.symm.trans hh'))]
    exact h.raiseFatal _

theorem SameVisible.pauseToggle : SameVisible s.pauseToggle s'.pauseToggle := by
  unfold State.pauseToggle
  rw [h.runState]
  cases s.runState with
  | running | paused => exact { h with runState := rfl }
  | halted => exact h

/-! ### The execute phase -/

/-- An instruction that does not read the unread elements leaves them apart exactly as they were. -/
theorem exec_sameOutcome_of_not_reads {i : Instr} (hi : readsKeysOrStack i = false) :
    SameOutcome (exec i s) (exec i s') := by
  have hnot : ¬ ((∃ nnn, i = .call nnn) ∨ i = .ret) := by rintro (⟨nnn, rfl⟩ | rfl) <;> cases hi
  obtain ⟨t, ht⟩ := exec_completes_of_not_stack s hnot
  have ht' : exec i s' = .next (t.withUnread s.key s'.IR s'.stack s'.kwSnap) := by
    rw [h.eq_withUnread]
    exact exec_withUnread hi ht _ _ _ _
  have unwritten {e : Elem} (hw : i.writes e = false) : e.Same s t := exec_elem_same ht hw
  obtain ⟨hnoSP, hnostack, hnophase, hnosnap⟩ := writes_eq_false_of_not_reads hi
  have hkey : t.key = s.key := unwritten (e := .key) rfl
  have hSP : t.SP = s.SP := unwritten hnoSP
  have hstack : t.stack = s.stack := unwritten hnostack
  have hphase : t.kwPhase = s.kwPhase := unwritten hnophase
  have hsnap : t.kwSnap = s.kwSnap := unwritten hnosnap
  refine .next_of_eq ht ht' ?_
  rw [← hkey]
  refine sameVisible_withUnread _ (fun j hj hlt => ?_) fun hw => ?_
  · simp only [hstack]
    exact h.stack j hj (hSP ▸ hlt)
  · exact (h.kwSnap (hphase.symm.trans hw)).trans hsnap.symm

theorem execCall_sameOutcome (nnn : Addr) : SameOutcome (execCall nnn s) (execCall nnn s') := by
  rcases execCall_cases nnn s with ⟨hfull, he⟩ | ⟨hroom, he⟩ | ⟨hill, he⟩
  · exact .next_of_eq he (execCall_of_full nnn (h.SP.trans hfull)) (h.raiseFatal _)
  · have hroom' : s'.SP.toNat < Config.stackDepth := h.SP ▸ hroom
    exact .next_of_eq he (execCall_of_room nnn hroom') ((h.pushPc hroom hroom').setPc rfl)
  · rw [he, execCall_of_illegal nnn (h.SP ▸ hill)]
    exact .fault _

theorem execRet_sameOutcome : SameOutcome (execRet s) (execRet s') := by
  rcases execRet_cases s with ⟨hempty, he⟩ | ⟨hentry, hne, he⟩ | ⟨hill, he⟩
  · exact .next_of_eq he (execRet_of_empty (h.SP.trans hempty)) (h.raiseFatal _)
  · have hpos : 0 < s.SP.toNat := Nat.pos_of_ne_zero fun e => hne (BitVec.eq_of_toNat_eq e)
    have hentry' : s'.SP.toNat - 1 < Config.stackDepth := h.SP ▸ hentry
    exact .next_of_eq he (execRet_of_entry (h.SP ▸ hpos) hentry') (h.popPc hpos hentry hentry')
  · rw [he, execRet_of_illegal (h.SP ▸ hill)]
    exact .fault _

/-- FX0A reads the sample only in Waiting, where the two are equal. -/
theorem execLdVxK_sameOutcome (x : RegIdx) : SameOutcome (execLdVxK x s) (execLdVxK x s') := by
  cases hp : s.kwPhase with
  | idle =>
    exact .next_of_eq (execLdVxK_waits x (.inl hp)) (execLdVxK_waits x (.inl (h.kwPhase.trans hp))) h.sampleAndRewind
  | waiting =>
    have hkeys : newlyPressed s'.kwSnap s'.key = newlyPressed s.kwSnap s.key := by rw [h.kwSnap hp, h.key]
    cases hk : lowestKey (newlyPressed s.kwSnap s.key) with
    | none =>
      exact .next_of_eq (execLdVxK_waits x (.inr hk)) (execLdVxK_waits x (.inr (by rw [hkeys, hk]))) h.sampleAndRewind
    | some k =>
      exact .next_of_eq (execLdVxK_takes x hp hk) (execLdVxK_takes x (h.kwPhase.trans hp) (by rw [hkeys, hk]))
        (h.takeKey x k)

theorem exec_sameOutcome (i : Instr) : SameOutcome (exec i s) (exec i s') := by
  cases i with
  | call nnn => exact execCall_sameOutcome h nnn
  | ret => exact execRet_sameOutcome h
  | skp | sknp => exact .next (h.skipIf (by rw [h.key, h.reg]))
  | ldVxK x => exact execLdVxK_sameOutcome h x
  | _ => exact exec_sameOutcome_of_not_reads h rfl

theorem step_sameOutcome : SameOutcome (step s) (step s') := by
  by_cases hr : s.runState = .running
  · have hr' := h.runState.trans hr
    cases hi : decodeWord s.fetchWord with
    | ok i =>
      rw [step_of_ok hr hi, step_of_ok hr' (by rw [h.fetchWord]; exact hi)]
      exact exec_sameOutcome h.fetch i
    | error r =>
      exact .next_of_eq (step_of_unknown hr hi) (step_of_unknown hr' (by rw [h.fetchWord]; exact hi)) h.fetch
  · have hr' : s'.runState ≠ .running := fun hr' => hr (h.runState.symm.trans hr')
    exact .next_of_eq (step_of_not_running hr) (step_of_not_running hr') h

theorem perform_sameOutcome (op : HostOp) : SameOutcome (perform op s) (perform op s') := by
  cases op with
  | step => exact step_sameOutcome h
  | tick => exact .next h.tick
  | keyIn keys => exact .next { h with key := rfl }
  | pauseToggle => exact .next h.pauseToggle
  | quit => exact .next h.quit
  | redrawAck => exact .next { h with needsRedraw := rfl }
  | reset rom => exact .next { SameVisible.refl (s.hostReset rom) with draws := h.draws }

/-! ### Outputs and report -/

theorem SameVisible.outputs : s'.outputs = s.outputs := by
  simp only [State.outputs, State.soundActive, h.pix, h.needsRedraw, h.DT, h.ST, h.runState, h.haltCause]

theorem SameVisible.unknownReport : s'.unknownReport = s.unknownReport := by
  simp only [State.unknownReport, h.runState, h.fetchWord, h.pc]

end

end Sys2Proof.Machine

namespace Sys2Proof

open Machine

/-- Settles O57: every operation takes states that look alike to outcomes that do. -/
theorem invisibleStateNeverMatters : Obligations.InvisibleStateNeverMatters :=
  fun op _ _ h => ⟨h.outputs, h.unknownReport, (perform_sameOutcome h op).agrees⟩

end Sys2Proof
end
